-- ==== Sys2Proof/Word.lean ====
section
/-! DEFINITION. Word.lean: the value types of TFQE-WPPS that are plain words or plain records of words (spec R7, R8,
R24, R25, R72, R76, R77). Every value of the block is unsigned (R7); a bit vector is used where the spec slices a value into
bits (the frame, a symbol, a port) and a natural number where it counts or computes exactly (R10). -/

namespace Sys2Proof

/-- The 38-bit packed frame (R24, R71); bit 37 is the most significant. -/
abbrev Frame := BitVec 38

/-- One quaternary digit of the frame (R72): two bits, all four values legal. -/
abbrev Symbol := BitVec 2

/-- The output level held for a segment (R76): `low` is carrier enabled, `high` is carrier disabled. -/
inductive Level where
  | low
  | high
deriving DecidableEq, Repr

/-- One waveform element, level and duration in ticks (R76). The duration is an exact natural number (R10); that it fits
the `DUR_W` bits of the register is R153, a proved property and not a truncation. -/
structure Segment where
  lvl : Level
  dur : Nat
deriving DecidableEq, Repr

/-- A waveform (R77): segments in the order they are emitted. -/
abbrev Waveform := List Segment

/-- The encoder's accumulator `V` with its width `w(V)` (R8). -/
structure Acc where
  width : Nat
  value : Nat
deriving DecidableEq, Repr

/-- "The empty accumulator has width 0 and value 0" (R8). -/
def Acc.empty : Acc := { width := 0, value := 0 }

end Sys2Proof
end

