-- ==== Sys2Proof/Config.lean ====
section
/-! DEFINITION. Config.lean: the configuration record `cfg` of spec R5 and its well-formedness R6. The spec leaves no value
free (93_implementation_defined.md has no treatment "any value" inside the block), so this file declares no opaque constant:
the open parameters are the fields of `Config`, and a state carries the `Config` it runs under (log entry 1). -/

namespace Sys2Proof

/-- The two weekday conventions of R81. -/
inductive WdayMode where
  | sun7
  | plus1
deriving DecidableEq, Repr

/-- The two frame-position boundaries of R78. -/
inductive MarkerMode where
  | lt20
  | lt21
deriving DecidableEq, Repr

/-- The five fields of R5 before R6 has been checked. -/
structure RawConfig where
  /-- Ticks of the shared tick unit in one second. -/
  T : Nat
  /-- Width in bits of a segment duration. -/
  durW : Nat
  /-- The calendar year that `year = 0` stands for: carried, read by no rule of the datapath (R5, R83, R123). -/
  baseYear : Int
  wdayMode : WdayMode
  markerMode : MarkerMode
deriving DecidableEq, Repr

/-- R6: "A configuration is well formed iff `T >= 10` and `T < 2^DUR_W` and `DUR_W >= 4`." -/
abbrev RawConfig.WellFormed (c : RawConfig) : Prop :=
  10 ≤ c.T ∧ c.T < 2 ^ c.durW ∧ 4 ≤ c.durW

/-- A configuration the model runs under. "The model's configuration type admits only well-formed values; no step function
exists for an ill-formed one" (93_implementation_defined.md U7, R6). -/
structure Config extends RawConfig where
  wf : toRawConfig.WellFormed
deriving DecidableEq, Repr

/-- The configuration `State.reset` carries: the defaults of R5 for `DUR_W`, `WDAY_MODE`, `MARKER_MODE`; the spec gives no
default for `T` and `BASE_YEAR` (DESIGN CHOICE, log entry 2: the smallest well-formed `T`, and 0). -/
def Config.default : Config :=
  { T := 10, durW := 32, baseYear := 0, wdayMode := .sun7, markerMode := .lt20, wf := by decide }

end Sys2Proof
end

