-- ==== Sys2Proof/Syntax.lean ====
section
/-! DEFINITION. Syntax.lean: the input bundle of spec R75, the words the opcode table describes, and `Instr`, one constructor
per row of spec/opcode_table.json.

The table has 25 rows. Four are the commands of the `cmd` port (R74), "the whole operation set" of the block (R198). The other
21 describe the parts those commands are made of: the four symbol values (R142 to R145), the frame format (R71), the twelve
packing steps of `ENCODE` (R102 to R113), the three marker values (R78) and the segment format (R76). Each has a constructor
too, whose meaning is the effect its rule gives it on the bound variables of the pseudocode (the accumulator `V` of R100, the
waveform under assembly `W` of R140); log entry 5. -/

namespace Sys2Proof

/-- The TIME format (R75): the seven unsigned input ports of R22, with their port widths. -/
structure TimeBundle where
  year   : BitVec 7
  month  : BitVec 4
  day    : BitVec 5
  hour24 : BitVec 5
  minute : BitVec 6
  second : BitVec 6
  wday   : BitVec 3
deriving DecidableEq, Repr

/-- The names of the seven ports, in the order R191 and R194 fix for reporting. -/
inductive TimeField where
  | year
  | month
  | day
  | hour24
  | minute
  | second
  | wday
deriving DecidableEq, Repr

/-- How a word of the opcode table is read: the table's format column, with the FRAME format split into the reading of a
whole frame (row FRAME) and the reading by marker value (rows MARKER0 to MARKER2), whose patterns overlap. -/
inductive Reading where
  | cmd
  | symbol
  | field
  | frame
  | marker
  | segment
deriving DecidableEq, Repr

/-- A word together with the format it is read in. The formats of R70 have different lengths and no common opcode space. -/
structure Word where
  reading : Reading
  bits    : Nat
deriving DecidableEq, Repr

/-- The fields of a frame below `RSV` (R71, bits 33 to 0), most significant first. -/
structure FrameRest where
  hour : BitVec 4
  min  : BitVec 6
  wday : BitVec 4
  pm   : BitVec 1
  par1 : BitVec 1
  day  : BitVec 6
  mon  : BitVec 4
  ylow : BitVec 6
  yhi  : BitVec 1
  par2 : BitVec 1
deriving DecidableEq, Repr

/-- One constructor per row of spec/opcode_table.json. The commands have no operand field: "`ENCODE` takes its operand from
the TIME ports, the others from the block's own registers" (R74). -/
inductive Instr where
  /-- NOP, R170. -/
  | nop
  /-- ENCODE, R100. -/
  | encode
  /-- SYNTH, R140. -/
  | synth
  /-- TAKE, R171. -/
  | take
  /-- SYM0, R142. -/
  | sym0
  /-- SYM1, R143. -/
  | sym1
  /-- SYM2, R144. -/
  | sym2
  /-- SYM3, R145. -/
  | sym3
  /-- FRAME, R71: a packed frame given by its fields (`RSV` is constant). -/
  | frame (marker : BitVec 2) (rest : FrameRest)
  /-- ENCODE.step1.MARKER, R102. -/
  | stepMarker
  /-- ENCODE.step2.RSV, R103. -/
  | stepRsv
  /-- ENCODE.step3.HOUR, R104. -/
  | stepHour
  /-- ENCODE.step4.MIN, R105. -/
  | stepMin
  /-- ENCODE.step5.WDAY, R106. -/
  | stepWday
  /-- ENCODE.step6.PM, R107. -/
  | stepPm
  /-- ENCODE.step7.PAR1, R108. -/
  | stepPar1
  /-- ENCODE.step8.DAY, R109. -/
  | stepDay
  /-- ENCODE.step9.MON, R110. -/
  | stepMon
  /-- ENCODE.step10.YLOW, R111. -/
  | stepYlow
  /-- ENCODE.step11.YHI, R112. -/
  | stepYhi
  /-- ENCODE.step12.PAR2, R113. -/
  | stepPar2
  /-- MARKER0, R78: a frame of the first 20-second sub-block. -/
  | marker0 (rest : FrameRest)
  /-- MARKER1, R78: a frame of the second sub-block. -/
  | marker1 (rest : FrameRest)
  /-- MARKER2, R78: a frame of the third sub-block. -/
  | marker2 (rest : FrameRest)
  /-- SEGMENT, R76. -/
  | segment (lvl : Level) (dur : Nat)
deriving DecidableEq, Repr

end Sys2Proof
end

