-- ==== Sys2Proof/WellFormed.lean ====
section
/-! DEFINITION. WellFormed.lean: the checks on what a model is given before any step: the configuration (spec R6) and an
instruction's operands (R71, R76). -/

namespace Sys2Proof

/-- R6: "an ill-formed one is refused before any step". -/
def Config.ofRaw (c : RawConfig) : Option Config :=
  if h : c.WellFormed then some { toRawConfig := c, wf := h } else none

/-- An instruction's operands fit their format. Only a SEGMENT's duration can fail to: it is "the unsigned number of ticks it
is held, `cfg.DUR_W` bits" (R76); every other operand's type has exactly its field's width. -/
def Instr.wf (durW : Nat) : Instr → Bool
  | .segment _ dur => decide (dur < 2 ^ durW)
  | .nop | .encode | .synth | .take => true
  | .sym0 | .sym1 | .sym2 | .sym3 => true
  | .frame _ _ | .marker0 _ | .marker1 _ | .marker2 _ => true
  | .stepMarker | .stepRsv | .stepHour | .stepMin | .stepWday | .stepPm => true
  | .stepPar1 | .stepDay | .stepMon | .stepYlow | .stepYhi | .stepPar2 => true

end Sys2Proof
end

