-- ==== Sys2Proof/Decode.lean ====
section
/-! DEFINITION. Decode.lean: from a word of the opcode table to an instruction, total, rejecting by name; then the encoder,
written from the same tables (spec R71, R72, R74, R76, R78). The block itself decodes only the two bits of `cmd` (R74, R174);
the other readings exist because the opcode table has rows of those formats (log entry 5). -/

namespace Sys2Proof

/-- Why a word is no word of its format. -/
inductive DecodeReject where
  /-- The word has a bit above its format's length (R70). -/
  | tooWide
  /-- Bits 35:34 of a frame word are not 0 (R71, R84; the mask and match of row FRAME). -/
  | reservedSet
  /-- The marker bits are 3, which no MARKER row has: "The value 3 is never produced" (R78). -/
  | markerThree
  /-- A FRAME_FIELD word that is the place of no field of R71. -/
  | noSuchField
deriving DecidableEq, Repr

/-- The decoder's answer. -/
inductive Decoded where
  | instr (i : Instr)
  | rejected (why : DecodeReject)
deriving DecidableEq, Repr

/-- The length of a format in bits (R70); a segment has `1 + cfg.DUR_W`. -/
def Reading.width (durW : Nat) : Reading → Nat
  | .cmd => 2
  | .symbol => 2
  | .field => 38
  | .frame => 38
  | .marker => 38
  | .segment => 1 + durW

/-- The fields of a frame below `RSV`, by the bit positions of R71. -/
def FrameRest.ofFrame (F : Frame) : FrameRest where
  hour := F.extractLsb' 30 4
  min  := F.extractLsb' 24 6
  wday := F.extractLsb' 20 4
  pm   := F.extractLsb' 19 1
  par1 := F.extractLsb' 18 1
  day  := F.extractLsb' 12 6
  mon  := F.extractLsb' 8 4
  ylow := F.extractLsb' 2 6
  yhi  := F.extractLsb' 1 1
  par2 := F.extractLsb' 0 1

/-- The frame format as one pattern, bit 37 first (R71): `kk00hhhhmmmmmmwwwwapddddddnnnnyyyyyyzq`. -/
def frameLayout (marker : BitVec 2) (r : FrameRest) : Frame :=
  marker ++ 0#2 ++ r.hour ++ r.min ++ r.wday ++ r.pm ++ r.par1 ++ r.day ++ r.mon ++ r.ylow ++ r.yhi ++ r.par2

/-- CMD (R74): "All four codes are assigned; there is no reserved or illegal command code." -/
def decodeCmd : Nat → Instr
  | 0 => .nop
  | 1 => .encode
  | 2 => .synth
  | _ => .take

/-- SYMBOL (R72): "All four values are legal symbols". -/
def decodeSymbol : Nat → Instr
  | 0 => .sym0
  | 1 => .sym1
  | 2 => .sym2
  | _ => .sym3

/-- FRAME_FIELD: the table gives these rows no opcode of their own; a row is told from the others by its mask, "its place in
the 38-bit frame" (DESIGN CHOICE, log entry 6). -/
def decodeField (bits : Nat) : Decoded :=
  if bits = 0x3000000000 then .instr .stepMarker
  else if bits = 0x0C00000000 then .instr .stepRsv
  else if bits = 0x03C0000000 then .instr .stepHour
  else if bits = 0x003F000000 then .instr .stepMin
  else if bits = 0x0000F00000 then .instr .stepWday
  else if bits = 0x0000080000 then .instr .stepPm
  else if bits = 0x0000040000 then .instr .stepPar1
  else if bits = 0x000003F000 then .instr .stepDay
  else if bits = 0x0000000F00 then .instr .stepMon
  else if bits = 0x00000000FC then .instr .stepYlow
  else if bits = 0x0000000002 then .instr .stepYhi
  else if bits = 0x0000000001 then .instr .stepPar2
  else .rejected .noSuchField

/-- FRAME (R71): any 38-bit value whose reserved bits are 0. -/
def decodeFrame (F : Frame) : Decoded :=
  if F.extractLsb' 34 2 = 0#2 then .instr (.frame (F.extractLsb' 36 2) (FrameRest.ofFrame F))
  else .rejected .reservedSet

/-- A FRAME word read by its marker value: the rows MARKER0, MARKER1, MARKER2 (R78). -/
def decodeMarker (F : Frame) : Decoded :=
  if F.extractLsb' 34 2 = 0#2 then
    match (F.extractLsb' 36 2).toNat with
    | 0 => .instr (.marker0 (FrameRest.ofFrame F))
    | 1 => .instr (.marker1 (FrameRest.ofFrame F))
    | 2 => .instr (.marker2 (FrameRest.ofFrame F))
    | _ => .rejected .markerThree
  else .rejected .reservedSet

/-- The bit value of a level (R76): "`lvl = 0` is the low output level", `lvl = 1` the high one. -/
def Level.bit : Level → Nat
  | .low => 0
  | .high => 1

/-- The level a bit value stands for (R76). -/
def Level.ofBit : Nat → Level
  | 0 => .low
  | _ => .high

/-- SEGMENT (R76): one bit `lvl` above `durW` bits `dur`. -/
def decodeSegment (durW bits : Nat) : Instr :=
  .segment (Level.ofBit (bits / 2 ^ durW)) (bits % 2 ^ durW)

/-- The decoder: every word is an instruction or is rejected by name. -/
def decode (durW : Nat) (w : Word) : Decoded :=
  if w.bits < 2 ^ w.reading.width durW then
    match w.reading with
    | .cmd => .instr (decodeCmd w.bits)
    | .symbol => .instr (decodeSymbol w.bits)
    | .field => decodeField w.bits
    | .frame => decodeFrame (BitVec.ofNat 38 w.bits)
    | .marker => decodeMarker (BitVec.ofNat 38 w.bits)
    | .segment => .instr (decodeSegment durW w.bits)
  else .rejected .tooWide

/-- The encoder: the word of an instruction, from the "encoding", "match" and "mask" columns of the opcode table. -/
def encode (durW : Nat) : Instr → Word
  | .nop => ⟨.cmd, 0b00⟩
  | .encode => ⟨.cmd, 0b01⟩
  | .synth => ⟨.cmd, 0b10⟩
  | .take => ⟨.cmd, 0b11⟩
  | .sym0 => ⟨.symbol, 0b00⟩
  | .sym1 => ⟨.symbol, 0b01⟩
  | .sym2 => ⟨.symbol, 0b10⟩
  | .sym3 => ⟨.symbol, 0b11⟩
  | .frame k r => ⟨.frame, (frameLayout k r).toNat⟩
  | .stepMarker => ⟨.field, 0x3000000000⟩
  | .stepRsv => ⟨.field, 0x0C00000000⟩
  | .stepHour => ⟨.field, 0x03C0000000⟩
  | .stepMin => ⟨.field, 0x003F000000⟩
  | .stepWday => ⟨.field, 0x0000F00000⟩
  | .stepPm => ⟨.field, 0x0000080000⟩
  | .stepPar1 => ⟨.field, 0x0000040000⟩
  | .stepDay => ⟨.field, 0x000003F000⟩
  | .stepMon => ⟨.field, 0x0000000F00⟩
  | .stepYlow => ⟨.field, 0x00000000FC⟩
  | .stepYhi => ⟨.field, 0x0000000002⟩
  | .stepPar2 => ⟨.field, 0x0000000001⟩
  | .marker0 r => ⟨.marker, (frameLayout 0#2 r).toNat⟩
  | .marker1 r => ⟨.marker, (frameLayout 1#2 r).toNat⟩
  | .marker2 r => ⟨.marker, (frameLayout 2#2 r).toNat⟩
  | .segment l d => ⟨.segment, l.bit * 2 ^ durW + d⟩

/-- A command word: the two bits of the `cmd` port (R23, R74). -/
def Word.ofCmd (c : BitVec 2) : Word := ⟨.cmd, c.toNat⟩

/-- The word a table row's bits stand for when only its length in bytes is given. The rows of different formats share lengths
and bit patterns, so a length cannot tell them apart: one byte is read as the `cmd` port, the block's only instruction input
(R74, R174), five bytes as a frame, by its marker value where a MARKER row has that value (log entry 7). -/
def tableWord (nbits w : Nat) : Word :=
  if nbits ≤ 8 then ⟨.cmd, w⟩
  else if nbits < 40 then ⟨.field, w⟩
  else if w / 2 ^ 36 = 3 then ⟨.frame, w⟩
  else ⟨.marker, w⟩

/-- What the decoder reads from a table row's bits (the shape the host asks for); `DUR_W` at its default. -/
def decodeTableWord (nbits w : Nat) : Option Instr :=
  match decode Config.default.durW (tableWord nbits w) with
  | .instr i => some i
  | .rejected _ => none

end Sys2Proof
end

