-- ==== Sys2Proof/Machine/State.lean ====
section
/-! DEFINITION. Machine/State.lean: the machine's state as plain data, the reasons a step can stop, and reset.

The block's own state is `frame`, `wave` and `faulted` (spec R21, R34). The other fields are not the block's: the configuration
it runs under (`cfg`), the input ports and what the host will drive on them (`time`, `script`), what `TAKE` has returned
(`delivered`), and the bound variables of the pseudocode made visible for the opcode table's non-command rows (`scratch`). -/

namespace Sys2Proof.Machine

/-- The bound variables of the pseudocode of R100 and R140, as the model's own data (log entry 5): the accumulator `V` and
the waveform under assembly `W`. No command of the `cmd` port reads or writes them. -/
structure Scratch where
  acc  : Acc
  segs : Waveform
deriving DecidableEq, Repr

/-- One sample of all the block's inputs (R22, R23): the reset event, the command word and the TIME bundle. -/
structure PortSample where
  reset : Bool
  word  : Word
  time  : TimeBundle
deriving DecidableEq, Repr

structure State where
  /-- The configuration (R5); no step changes it (R29, R237). -/
  cfg       : Config
  /-- The TIME ports (R22, R75): inputs, not latched by the block. -/
  time      : TimeBundle
  /-- `FRAME`, absent when `FRAME_VALID = 0` (R24, R27, R32, R34). -/
  frame     : Option Frame
  /-- `WAVE`, absent when `WAVE_VALID = 0` (R26, R27, R32, R34). -/
  wave      : Option Waveform
  /-- The model-only mark of R33. -/
  faulted   : Bool
  /-- What the host drives on the inputs at the coming steps, the next first (R174, R175; log entry 3). -/
  script    : List PortSample
  /-- The waveforms `TAKE` has returned to the host, oldest first (R171, R172; log entry 4). -/
  delivered : List Waveform
  scratch   : Scratch
deriving DecidableEq, Repr

/-- The three model fault outcomes of R191. All are safe: the source defines no behaviour for such a step, and the model gives
it none (R192). -/
inductive Fault where
  /-- Code 1, `FLT_TIME_RANGE`: raised by `ENCODE` on an invalid bundle (R120), with the first port out of range and its value;
  and by a packing step whose own operand port is out of range (log entry 8). -/
  | timeRange (field : TimeField) (value : Nat)
  /-- Code 2, `FLT_NO_FRAME`: raised by `SYNTH` with `FRAME_VALID = 0` (R155). -/
  | noFrame
  /-- Code 3, `FLT_NO_WAVE`: raised by `TAKE` with `WAVE_VALID = 0` (R173). -/
  | noWave
deriving DecidableEq, Repr

/-- Why a step is not taken at all. All are safe. -/
inductive Refusal where
  /-- No meaning yet; raised by no arm of this model. -/
  | notModelled (mnemonic : String)
  /-- The `faulted` mark is set: "takes no further command steps; only the reset event leaves it" (R33, R174). -/
  | noStepWhileFaulted
  /-- The driven word is no word of its format; impossible for a two-bit command (R74). -/
  | undecodable (why : DecodeReject)
deriving DecidableEq, Repr

/-- The scratch before any step: `V0`, the empty accumulator (R8, R100), and no segment yet. -/
def Scratch.empty : Scratch := { acc := Acc.empty, segs := [] }

/-- The TIME ports before the host has driven them (DESIGN CHOICE, log entry 2): all bits 0, which is no valid bundle. -/
def TimeBundle.undriven : TimeBundle :=
  { year := 0, month := 0, day := 0, hour24 := 0, minute := 0, second := 0, wday := 0 }

/-- The reset state (R31, R34): "(absent, absent, false)". -/
def State.reset : State where
  cfg       := Config.default
  time      := TimeBundle.undriven
  frame     := none
  wave      := none
  faulted   := false
  script    := []
  delivered := []
  scratch   := Scratch.empty

end Sys2Proof.Machine
end

