-- ==== Sys2Proof/Machine/Operands.lean ====
section
/-! DEFINITION. Machine/Operands.lean: operand validity (spec R75, R120, R191) and the assembly of each field of the frame
from the TIME bundle (R78 to R84). All values are natural numbers (R10). -/

namespace Sys2Proof.Machine

/-- The value a port carries. -/
def portValue (t : TimeBundle) : TimeField → Nat
  | .year => t.year.toNat
  | .month => t.month.toNat
  | .day => t.day.toNat
  | .hour24 => t.hour24.toNat
  | .minute => t.minute.toNat
  | .second => t.second.toNat
  | .wday => t.wday.toNat

/-- The valid range of each port (the table of R75). -/
def inRange : TimeField → Nat → Bool
  | .year, v => decide (v ≤ 99)
  | .month, v => decide (1 ≤ v) && decide (v ≤ 12)
  | .day, v => decide (1 ≤ v) && decide (v ≤ 31)
  | .hour24, v => decide (v ≤ 23)
  | .minute, v => decide (v ≤ 59)
  | .second, v => decide (v ≤ 59)
  | .wday, v => decide (v ≤ 6)

/-- The order in which an out-of-range port is reported (R191, R194). -/
def fieldOrder : List TimeField :=
  [.year, .month, .day, .hour24, .minute, .second, .wday]

/-- `first_bad_field(t)` of R100: the first port out of range in that order, if any. -/
def firstBadField (t : TimeBundle) : Option TimeField :=
  fieldOrder.find? fun f => !inRange f (portValue t f)

/-- `valid(t)` of R75: "the conjunction of the seven range conditions and nothing else". -/
def validTime (t : TimeBundle) : Bool :=
  fieldOrder.all fun f => inRange f (portValue t f)

/-- `MARKER` (R78, R102). -/
def markerField (mode : MarkerMode) (second : Nat) : Nat :=
  match mode with
  | .lt20 => if second < 20 then 0 else if second < 40 then 1 else 2
  | .lt21 => if second < 21 then 0 else if second < 41 then 1 else 2

/-- `RSV` (R84): "the constant 0". -/
def rsvField : Nat := 0

/-- `HOUR` (R79): `t.hour24 mod 12`. -/
def hourField (hour24 : Nat) : Nat := hour24 % 12

/-- `PM` (R80): 1 if `t.hour24 >= 12`, else 0. -/
def pmField (hour24 : Nat) : Nat := if 12 ≤ hour24 then 1 else 0

/-- `WDAY` (R81) from the raw day number, 0 = Sunday. -/
def wdayField (mode : WdayMode) (wday : Nat) : Nat :=
  match mode with
  | .sun7 => if wday = 0 then 7 else wday
  | .plus1 => wday + 1

/-- `YLOW` (R83): `t.year mod 64`. -/
def ylowField (year : Nat) : Nat := year % 64

/-- `YHI` (R83): `t.year div 64`. -/
def yhiField (year : Nat) : Nat := year / 64

end Sys2Proof.Machine
end

