-- ==== Sys2Proof/Machine/Flags.lean ====
section
/-! DEFINITION. Machine/Flags.lean: the two valid flags (spec R27), and the parity function and check (R9, R85, R90). The
block has no condition codes, carry, overflow or error flag (R27). -/

namespace Sys2Proof.Machine

/-- `FRAME_VALID` and the output `frame_valid` (R27, R60): "`frame` is present" (R34). -/
def frameValid (s : State) : Bool := s.frame.isSome

/-- `WAVE_VALID` and the output `wave_valid` (R27, R60): "`wave` is present" (R34). -/
def waveValid (s : State) : Bool := s.wave.isSome

/-- The number of 1 bits among the low `w` bits of `v`. -/
def onesCount : Nat → Nat → Nat
  | 0, _ => 0
  | w + 1, v => v % 2 + onesCount w (v / 2)

/-- `xorfold(v)` (R9) of a value of width `w`: "(number of 1 bits of v) mod 2". -/
def xorfold (w v : Nat) : Nat := onesCount w v % 2

/-- `parity_ok(F)` (R90): the fold of each half, its parity bit included, is 0. -/
def parityOk (F : Frame) : Bool :=
  xorfold 20 (F.extractLsb' 18 20).toNat == 0 && xorfold 18 (F.extractLsb' 0 18).toNat == 0

end Sys2Proof.Machine
end

