-- ==== Sys2Proof/Machine/Ops.lean ====
section
/-! DEFINITION. Machine/Ops.lean: the named operations over the registers. The block has no byte memory, no address map, no
trap entry and no return (spec R50, R56, R195, R196); in their place stand the append primitive (R8), the register writes
(R115, R148, R171), the read functions (R60), the reset event (R230) and the fault mark (R33, R192). -/

namespace Sys2Proof.Machine

/-- `append(V, n, x)` (R8): "the value `V * 2^n + x` of width `w(V) + n`". No overflow is recorded: every value `ENCODE` appends is
below `2^n` (R122, `AppendsFit`). -/
def append (V : Acc) (n x : Nat) : Acc :=
  { width := V.width + n, value := V.value * 2 ^ n + x }

/-- `SYM[i]` of a frame (R25, R72): the slice `F[37-2i : 36-2i]`, for `i` in 0 to 18. -/
def sym (F : Frame) (i : Nat) : Symbol := F.extractLsb' (36 - 2 * i) 2

/-- The 19 symbols in index order (R114): the source's SymbolSequence. -/
def symbols (F : Frame) : List Symbol := (List.range 19).map (sym F)

/-! ### Register writes -/

/-- `FRAME <- F ; FRAME_VALID <- 1` (R115). -/
def writeFrame (F : Frame) (s : State) : State := { s with frame := some F }

/-- `WAVE <- W ; WAVE_VALID <- 1`, all entries at once (R148). -/
def writeWave (W : Waveform) (s : State) : State := { s with wave := some W }

/-- The hand-off of `TAKE` (R171): the waveform goes to the host, both valid flags are cleared, and both registers hold no
value afterwards (R32). -/
def handOver (W : Waveform) (s : State) : State :=
  { s with wave := none, frame := none, delivered := s.delivered ++ [W] }

/-- Write the accumulator `V` of R100. -/
def setAcc (V : Acc) (s : State) : State := { s with scratch := { s.scratch with acc := V } }

/-- Put segments after those already assembled in `W` (R140, R146). -/
def addSegments (g : Waveform) (s : State) : State :=
  { s with scratch := { s.scratch with segs := s.scratch.segs ++ g } }

/-! ### The read functions (R60): no side effect -/

/-- `read_frame()` (R60). -/
def readFrame (s : State) : Option Frame := s.frame

/-- `read_sym(i)` (R60), with its 5-bit index (R53). -/
def readSym (s : State) (i : BitVec 5) : Option Symbol :=
  match s.frame with
  | some F => if i.toNat ≤ 18 then some (sym F i.toNat) else none
  | none => none

/-- `read_seg(k)` (R60), with its 6-bit index (R53). -/
def readSeg (s : State) (k : BitVec 6) : Option Segment :=
  match s.wave with
  | some W => if k.toNat ≤ 38 then W[k.toNat]? else none
  | none => none

/-! ### Faults and reset -/

/-- The one effect of a faulting step (R192): "writes no register and no flag, sets the model's `faulted` mark". -/
def markFaulted (s : State) : State := { s with faulted := true }

/-- The codes of R191. -/
def faultCode : Fault → Nat
  | .timeRange _ _ => 1
  | .noFrame => 2
  | .noWave => 3

/-- The reset event (R230): both flags cleared, `FRAME` and `WAVE` hold no value, the `faulted` mark cleared; "The
configuration is unchanged." What was handed to the host stays handed over; the scratch is emptied (log entry 5). -/
def resetEvent (s : State) : State :=
  { s with frame := none, wave := none, faulted := false, scratch := Scratch.empty }

/-! ### The inputs -/

/-- What the inputs carry when the host drives nothing: the `cmd` port carries NOP (R170), the TIME ports stay as they are. -/
def idleSample (s : State) : PortSample :=
  { reset := false, word := ⟨.cmd, 0b00⟩, time := s.time }

/-- The sample the next step sees. -/
def nextSample (s : State) : PortSample := s.script.head?.getD (idleSample s)

/-- The state in which that sample is on the ports. -/
def sampled (s : State) : State :=
  { s with script := s.script.tail, time := (nextSample s).time }

end Sys2Proof.Machine
end

