-- ==== Sys2Proof/Machine/Encoder.lean ====
section
/-! DEFINITION. Machine/Encoder.lean: the frame encoder (spec 40_frame_encoder.md): its twelve packing steps as functions of the
accumulator, `ENCODE` as their composition in the order of R100, and each step on its own. -/

namespace Sys2Proof.Machine

/-! ### The twelve packing steps (R102 to R113) -/

/-- Step 1 (R102). -/
def packMarker (c : Config) (t : TimeBundle) (V : Acc) : Acc :=
  append V 2 (markerField c.markerMode t.second.toNat)

/-- Step 2 (R103). -/
def packRsv (V : Acc) : Acc := append V 2 rsvField

/-- Step 3 (R104). -/
def packHour (t : TimeBundle) (V : Acc) : Acc := append V 4 (hourField t.hour24.toNat)

/-- Step 4 (R105). -/
def packMin (t : TimeBundle) (V : Acc) : Acc := append V 6 t.minute.toNat

/-- Step 5 (R106). -/
def packWday (c : Config) (t : TimeBundle) (V : Acc) : Acc :=
  append V 4 (wdayField c.wdayMode t.wday.toNat)

/-- Step 6 (R107). -/
def packPm (t : TimeBundle) (V : Acc) : Acc := append V 1 (pmField t.hour24.toNat)

/-- Steps 7 and 12 (R108, R113): parity "computed over a strict prefix of the growing value" (R101). -/
def packParity (V : Acc) : Acc := append V 1 (xorfold V.width V.value)

/-- Step 8 (R109). -/
def packDay (t : TimeBundle) (V : Acc) : Acc := append V 6 t.day.toNat

/-- Step 9 (R110). -/
def packMon (t : TimeBundle) (V : Acc) : Acc := append V 4 t.month.toNat

/-- Step 10 (R111). -/
def packYlow (t : TimeBundle) (V : Acc) : Acc := append V 6 (ylowField t.year.toNat)

/-- Step 11 (R112). -/
def packYhi (t : TimeBundle) (V : Acc) : Acc := append V 1 (yhiField t.year.toNat)

/-- `V7` of R100: the first half of the frame, after seven steps. -/
def firstHalf (c : Config) (t : TimeBundle) : Acc :=
  packParity (packPm t (packWday c t (packMin t (packHour t (packRsv (packMarker c t Acc.empty))))))

/-- `V12` of R100: all twelve steps from the empty accumulator; below `2^38` on a valid bundle (R122). -/
def encodeAcc (c : Config) (t : TimeBundle) : Acc :=
  packParity (packYhi t (packYlow t (packMon t (packDay t (firstHalf c t)))))

/-- The frame of a time bundle: `V12` as the 38-bit register takes it (R115); on a valid bundle nothing is cut off (R122). -/
def encodeFrame (c : Config) (t : TimeBundle) : Frame := BitVec.ofNat 38 (encodeAcc c t).value

/-! ### The command -/

/-- `ENCODE` (R100, R115, R120). -/
def execEncode (s : State) : Host.Outcome State Fault Refusal :=
  match firstBadField s.time with
  | some f => .fault (.timeRange f (portValue s.time f))
  | none => .next (writeFrame (encodeFrame s.cfg s.time) s)

/-! ### Each packing step on its own (log entries 5 and 8) -/

/-- A packing step with an operand port: the accumulator takes its value after the step; out of the operand's range the source
defines no result (R120). -/
def packFrom (f : TimeField) (pack : Acc → Acc) (s : State) : Host.Outcome State Fault Refusal :=
  if inRange f (portValue s.time f) then .next (setAcc (pack s.scratch.acc) s)
  else .fault (.timeRange f (portValue s.time f))

/-- ENCODE.step1.MARKER (R102). -/
def execStepMarker (s : State) : Host.Outcome State Fault Refusal :=
  packFrom .second (packMarker s.cfg s.time) s

/-- ENCODE.step2.RSV (R103): operand none. -/
def execStepRsv (s : State) : Host.Outcome State Fault Refusal :=
  .next (setAcc (packRsv s.scratch.acc) s)

/-- ENCODE.step3.HOUR (R104). -/
def execStepHour (s : State) : Host.Outcome State Fault Refusal :=
  packFrom .hour24 (packHour s.time) s

/-- ENCODE.step4.MIN (R105). -/
def execStepMin (s : State) : Host.Outcome State Fault Refusal :=
  packFrom .minute (packMin s.time) s

/-- ENCODE.step5.WDAY (R106). -/
def execStepWday (s : State) : Host.Outcome State Fault Refusal :=
  packFrom .wday (packWday s.cfg s.time) s

/-- ENCODE.step6.PM (R107). -/
def execStepPm (s : State) : Host.Outcome State Fault Refusal :=
  packFrom .hour24 (packPm s.time) s

/-- ENCODE.step7.PAR1 (R108): operand `V6`. -/
def execStepPar1 (s : State) : Host.Outcome State Fault Refusal :=
  .next (setAcc (packParity s.scratch.acc) s)

/-- ENCODE.step8.DAY (R109). -/
def execStepDay (s : State) : Host.Outcome State Fault Refusal :=
  packFrom .day (packDay s.time) s

/-- ENCODE.step9.MON (R110). -/
def execStepMon (s : State) : Host.Outcome State Fault Refusal :=
  packFrom .month (packMon s.time) s

/-- ENCODE.step10.YLOW (R111). -/
def execStepYlow (s : State) : Host.Outcome State Fault Refusal :=
  packFrom .year (packYlow s.time) s

/-- ENCODE.step11.YHI (R112). -/
def execStepYhi (s : State) : Host.Outcome State Fault Refusal :=
  packFrom .year (packYhi s.time) s

/-- ENCODE.step12.PAR2 (R113): operand `V11`. -/
def execStepPar2 (s : State) : Host.Outcome State Fault Refusal :=
  .next (setAcc (packParity s.scratch.acc) s)

end Sys2Proof.Machine
end

