-- ==== Sys2Proof/Machine/Formats.lean ====
section
/-! DEFINITION. Machine/Formats.lean: the format rows of the opcode table as instructions of the model's scratch (log entry 5):
a frame given by its fields becomes the packed value `V12` (spec R71, R78, R100), a segment joins the waveform under assembly
(R76, R77). None of them writes `FRAME` or `WAVE`: only `ENCODE` and `SYNTH` do (R24, R26). -/

namespace Sys2Proof.Machine

/-- The accumulator after the twelve steps: a whole frame, width 38 (R100). -/
def accOfFrame (F : Frame) : Acc := { width := 38, value := F.toNat }

/-- FRAME (R71). -/
def execFrame (marker : BitVec 2) (rest : FrameRest) (s : State) : Host.Outcome State Fault Refusal :=
  .next (setAcc (accOfFrame (frameLayout marker rest)) s)

/-- MARKER0 (R78). -/
def execMarker0 (rest : FrameRest) (s : State) : Host.Outcome State Fault Refusal :=
  .next (setAcc (accOfFrame (frameLayout 0#2 rest)) s)

/-- MARKER1 (R78). -/
def execMarker1 (rest : FrameRest) (s : State) : Host.Outcome State Fault Refusal :=
  .next (setAcc (accOfFrame (frameLayout 1#2 rest)) s)

/-- MARKER2 (R78). -/
def execMarker2 (rest : FrameRest) (s : State) : Host.Outcome State Fault Refusal :=
  .next (setAcc (accOfFrame (frameLayout 2#2 rest)) s)

/-- SEGMENT (R76). -/
def execSegment (lvl : Level) (dur : Nat) (s : State) : Host.Outcome State Fault Refusal :=
  .next (addSegments [{ lvl := lvl, dur := dur }] s)

end Sys2Proof.Machine
end

