-- ==== Sys2Proof/Machine/Handoff.lean ====
section
/-! DEFINITION. Machine/Handoff.lean: the commands `NOP` and `TAKE` (spec R170 to R173). -/

namespace Sys2Proof.Machine

/-- `NOP` (R170): "the state after equals the state before". -/
def execNop (s : State) : Host.Outcome State Fault Refusal := .next s

/-- `TAKE` (R171, R172, R173). -/
def execTake (s : State) : Host.Outcome State Fault Refusal :=
  match s.wave with
  | none => .fault .noWave
  | some W => .next (handOver W s)

end Sys2Proof.Machine
end

