-- ==== Sys2Proof/Machine/Synthesizer.lean ====
section
/-! DEFINITION. Machine/Synthesizer.lean: the waveform pulse-pair synthesizer (spec 41_waveform_synthesizer.md): the pulse-pair
function, `SYNTH`, the four symbol values on their own, and the level function that says what a waveform means. -/

namespace Sys2Proof.Machine

/-- `low(s) = (cfg.T * (s + 1)) div 10` (R141): the product first, then the floor. -/
def lowTicks (T s : Nat) : Nat := T * (s + 1) / 10

/-- `high(s) = cfg.T - low(s)` (R141): by subtraction, never by a second division. -/
def highTicks (T s : Nat) : Nat := T - lowTicks T s

/-- `pp(s)` (R141): carrier enabled first, then carrier disabled. -/
def pulsePair (T s : Nat) : Waveform :=
  [{ lvl := .low, dur := lowTicks T s }, { lvl := .high, dur := highTicks T s }]

/-- `W[38]` (R147): exactly one silent second. -/
def trailer (T : Nat) : Segment := { lvl := .high, dur := T }

/-- The waveform of a frame (R140, R146, R147): the 19 pulse pairs in symbol order and the trailer. -/
def synthesize (T : Nat) (F : Frame) : Waveform :=
  (symbols F).flatMap (fun x => pulsePair T x.toNat) ++ [trailer T]

/-- `SYNTH` (R140, R148, R155). -/
def execSynth (s : State) : Host.Outcome State Fault Refusal :=
  match s.frame with
  | none => .fault .noFrame
  | some F => .next (writeWave (synthesize s.cfg.T F) s)

/-! ### The four symbol values on their own (log entry 5): the pair joins the waveform under assembly (R146) -/

/-- SYM0 (R142). -/
def execSym0 (s : State) : Host.Outcome State Fault Refusal :=
  .next (addSegments (pulsePair s.cfg.T 0) s)

/-- SYM1 (R143). -/
def execSym1 (s : State) : Host.Outcome State Fault Refusal :=
  .next (addSegments (pulsePair s.cfg.T 1) s)

/-- SYM2 (R144). -/
def execSym2 (s : State) : Host.Outcome State Fault Refusal :=
  .next (addSegments (pulsePair s.cfg.T 2) s)

/-- SYM3 (R145). -/
def execSym3 (s : State) : Host.Outcome State Fault Refusal :=
  .next (addSegments (pulsePair s.cfg.T 3) s)

/-! ### What a waveform means (R150, R151) -/

/-- The sum of the durations of a waveform (R150). -/
def totalTicks (W : Waveform) : Nat := (W.map Segment.dur).sum

/-- `start(k)` of R151: the tick at which segment `k` begins. -/
def startTick (W : Waveform) (k : Nat) : Nat := totalTicks (W.take k)

/-- `level(W, x)` of R151; outside the waveform it "says nothing". -/
def level : Waveform → Nat → Option Level
  | [], _ => none
  | g :: W, x => if x < g.dur then some g.lvl else level W (x - g.dur)

end Sys2Proof.Machine
end

