-- ==== Sys2Proof/Machine/Dispatch.lean ====
section
/-! DEFINITION. Machine/Dispatch.lean: one arm per instruction (spec R174 for the commands). -/

namespace Sys2Proof.Machine

def exec (i : Instr) (s : State) : Host.Outcome State Fault Refusal :=
  match i with
  | .nop => Sys2Proof.Machine.execNop s
  | .encode => Sys2Proof.Machine.execEncode s
  | .synth => Sys2Proof.Machine.execSynth s
  | .take => Sys2Proof.Machine.execTake s
  | .sym0 => Sys2Proof.Machine.execSym0 s
  | .sym1 => Sys2Proof.Machine.execSym1 s
  | .sym2 => Sys2Proof.Machine.execSym2 s
  | .sym3 => Sys2Proof.Machine.execSym3 s
  | .frame marker rest => Sys2Proof.Machine.execFrame marker rest s
  | .stepMarker => Sys2Proof.Machine.execStepMarker s
  | .stepRsv => Sys2Proof.Machine.execStepRsv s
  | .stepHour => Sys2Proof.Machine.execStepHour s
  | .stepMin => Sys2Proof.Machine.execStepMin s
  | .stepWday => Sys2Proof.Machine.execStepWday s
  | .stepPm => Sys2Proof.Machine.execStepPm s
  | .stepPar1 => Sys2Proof.Machine.execStepPar1 s
  | .stepDay => Sys2Proof.Machine.execStepDay s
  | .stepMon => Sys2Proof.Machine.execStepMon s
  | .stepYlow => Sys2Proof.Machine.execStepYlow s
  | .stepYhi => Sys2Proof.Machine.execStepYhi s
  | .stepPar2 => Sys2Proof.Machine.execStepPar2 s
  | .marker0 rest => Sys2Proof.Machine.execMarker0 rest s
  | .marker1 rest => Sys2Proof.Machine.execMarker1 rest s
  | .marker2 rest => Sys2Proof.Machine.execMarker2 rest s
  | .segment lvl dur => Sys2Proof.Machine.execSegment lvl dur s

end Sys2Proof.Machine
end

