-- ==== Sys2Proof/Machine/Step.lean ====
section
/-! DEFINITION. Machine/Step.lean: one step of the machine (spec R174, R230), and how a word comes to be run by it. -/

namespace Sys2Proof.Machine

/-- One step: the inputs are sampled; the reset event takes precedence over a command and works in any state (R174, R194,
R230); a faulted state takes no command step (R33); otherwise the word on the ports is decoded and executed whole (R174). -/
def step (s : State) : Host.Outcome State Fault Refusal :=
  if (nextSample s).reset then .next (resetEvent (sampled s))
  else if s.faulted then .refused .noStepWhileFaulted
  else
    match decode s.cfg.durW (nextSample s).word with
    | .rejected why => .refused (.undecodable why)
    | .instr i => exec i (sampled s)

/-- `s` with a table row's word on the ports at the next step. The machine loads no program: the host drives one command a step
(R174, R175; log entry 3), so the word goes to the head of what the host drives, with the TIME ports as they are. -/
def State.withFetchWord (s : State) (nbits w : Nat) : State :=
  { s with script := { reset := false, word := tableWord nbits w, time := s.time } :: s.script }

end Sys2Proof.Machine
end

