-- ==== Sys2Proof/Machine/Run.lean ====
section
/-! DEFINITION. Machine/Run.lean: the state after a step, faulting steps included. A fault outcome carries no state, so this
file says what R192 and R33 say the state is then: nothing written, the `faulted` mark set; from there only the reset event
leads on (R196). It is what the small programs of 95_test_vectors.md part 5 are read with. -/

namespace Sys2Proof.Machine

/-- The state after one sample of the inputs. A refused step executes nothing. -/
def afterStep (s : State) : State :=
  match step s with
  | .next t => t
  | .fault _ => markFaulted (sampled s)
  | .refused _ => sampled s

/-- The state after `k` samples. -/
def afterSteps : Nat → State → State
  | 0, s => s
  | k + 1, s => afterSteps k (afterStep s)

/-- A command as the host drives it: a `cmd` code and the TIME bundle (R22, R23). -/
def command (c : BitVec 2) (t : TimeBundle) : PortSample :=
  { reset := false, word := Word.ofCmd c, time := t }

/-- The reset event (R23, R230), whatever the other ports carry. -/
def resetSample (w : Word) (t : TimeBundle) : PortSample :=
  { reset := true, word := w, time := t }

end Sys2Proof.Machine
end

