-- ==== Sys2Proof/Safety.lean ====
section
/-! DEFINITION. Safety.lean: the terms claims are stated in: the spec's own closed forms and laws, written apart from the meanings
they are compared with (R9, R116, R86, R151), the contract of each command (R190), the phases (R175), the invariant of a run,
and the few facts the spec takes as premises about the environment (R200, R201, R208). -/

namespace Sys2Proof.Machine

/-! ### Closed forms -/

/-- The 64-bit shift-and-xor reduction R9 gives for `xorfold`. -/
def foldReduction (v : Nat) : Nat :=
  let x0 := v % 2 ^ 64
  let x1 := x0 ^^^ (x0 >>> 32)
  let x2 := x1 ^^^ (x1 >>> 16)
  let x3 := x2 ^^^ (x2 >>> 8)
  let x4 := x3 ^^^ (x3 >>> 4)
  let x5 := x4 ^^^ (x4 >>> 2)
  let x6 := x5 ^^^ (x5 >>> 1)
  x6 % 2

/-- `A` of R116: the six fields before the first parity bit, as one 19-bit sum. -/
def closedA (c : Config) (t : TimeBundle) : Nat :=
  markerField c.markerMode t.second.toNat * 2 ^ 17 + 0 * 2 ^ 15 + (t.hour24.toNat % 12) * 2 ^ 11 +
    t.minute.toNat * 2 ^ 5 + wdayField c.wdayMode t.wday.toNat * 2 ^ 1 + pmField t.hour24.toNat

/-- `B` of R116: the four fields of the second half, as one 17-bit sum. -/
def closedB (t : TimeBundle) : Nat :=
  t.day.toNat * 2 ^ 11 + t.month.toNat * 2 ^ 7 + (t.year.toNat % 64) * 2 ^ 1 + t.year.toNat / 64

/-- `F` of R116. -/
def closedFrame (c : Config) (t : TimeBundle) : Nat :=
  closedA c t * 2 ^ 19 + xorfold 19 (closedA c t) * 2 ^ 18 + closedB t * 2 ^ 1 + xorfold 17 (closedB t)

/-- The closed form of the level function (R151) for a frame's waveform, inside its `20 * T` ticks. -/
def closedLevel (T : Nat) (F : Frame) (x : Nat) : Level :=
  if x / T ≤ 18 ∧ x % T < T * ((sym F (x / T)).toNat + 1) / 10 then .low else .high

/-! ### What an encoded frame satisfies -/

/-- The value constraints of R86 on a frame. -/
structure FrameOk (F : Frame) : Prop where
  marker : (F.extractLsb' 36 2).toNat ≤ 2
  rsv    : (F.extractLsb' 34 2).toNat = 0
  hour   : (F.extractLsb' 30 4).toNat ≤ 11
  min    : (F.extractLsb' 24 6).toNat ≤ 59
  wday   : 1 ≤ (F.extractLsb' 20 4).toNat ∧ (F.extractLsb' 20 4).toNat ≤ 7
  day    : 1 ≤ (F.extractLsb' 12 6).toNat ∧ (F.extractLsb' 12 6).toNat ≤ 31
  mon    : 1 ≤ (F.extractLsb' 8 4).toNat ∧ (F.extractLsb' 8 4).toNat ≤ 12
  year   : 64 * (F.extractLsb' 1 1).toNat + (F.extractLsb' 2 6).toNat ≤ 99
  par1   : xorfold 20 (F.extractLsb' 18 20).toNat = 0
  par2   : xorfold 18 (F.extractLsb' 0 18).toNat = 0

/-! ### No overflow (R122) -/

/-- The twelve packing steps as functions of the accumulator, in the order of R100. -/
def packSteps (c : Config) (t : TimeBundle) : List (Acc → Acc) :=
  [packMarker c t, packRsv, packHour t, packMin t, packWday c t, packPm t, packParity, packDay t, packMon t, packYlow t,
    packYhi t, packParity]

/-- `V0` to `V12` of R100: the accumulator after the first `k` packing steps. -/
def accAfterSteps (c : Config) (t : TimeBundle) (k : Nat) : Acc :=
  ((packSteps c t).take k).foldl (fun V pack => pack V) Acc.empty

/-- The bounds of R122 on the value each packing step appends, every one below `2^n` for its field width `n`. -/
structure AppendsFit (c : Config) (t : TimeBundle) : Prop where
  marker : markerField c.markerMode t.second.toNat ≤ 2
  rsv    : rsvField < 2 ^ 2
  hour   : hourField t.hour24.toNat ≤ 11
  min    : t.minute.toNat ≤ 59
  wday   : wdayField c.wdayMode t.wday.toNat ≤ 7
  pm     : pmField t.hour24.toNat ≤ 1
  par1   : xorfold (accAfterSteps c t 6).width (accAfterSteps c t 6).value ≤ 1
  day    : t.day.toNat ≤ 31
  mon    : t.month.toNat ≤ 12
  ylow   : ylowField t.year.toNat ≤ 63
  yhi    : yhiField t.year.toNat ≤ 1
  par2   : xorfold (accAfterSteps c t 11).width (accAfterSteps c t 11).value ≤ 1

/-! ### Contracts and phases -/

/-- A command inside its contract (R190): "valid bundle for `ENCODE`, `FRAME_VALID = 1` for `SYNTH`, `WAVE_VALID = 1` for
`TAKE`". The other table rows have no entry in R190; a packing step's contract is its own operand range (log entry 8). -/
def inContract (i : Instr) (s : State) : Bool :=
  match i with
  | .nop => true
  | .encode => validTime s.time
  | .synth => frameValid s
  | .take => waveValid s
  | .stepMarker => inRange .second s.time.second.toNat
  | .stepHour | .stepPm => inRange .hour24 s.time.hour24.toNat
  | .stepMin => inRange .minute s.time.minute.toNat
  | .stepWday => inRange .wday s.time.wday.toNat
  | .stepDay => inRange .day s.time.day.toNat
  | .stepMon => inRange .month s.time.month.toNat
  | .stepYlow | .stepYhi => inRange .year s.time.year.toNat
  | .stepRsv | .stepPar1 | .stepPar2 => true
  | .sym0 | .sym1 | .sym2 | .sym3 => true
  | .frame _ _ | .marker0 _ | .marker1 _ | .marker2 _ | .segment _ _ => true

/-- The four commands of R74, "the whole operation set" (R198). -/
def isCommand : Instr → Bool
  | .nop | .encode | .synth | .take => true
  | .sym0 | .sym1 | .sym2 | .sym3 => false
  | .frame _ _ | .marker0 _ | .marker1 _ | .marker2 _ | .segment _ _ => false
  | .stepMarker | .stepRsv | .stepHour | .stepMin | .stepWday | .stepPm => false
  | .stepPar1 | .stepDay | .stepMon | .stepYlow | .stepYhi | .stepPar2 => false

/-- The three phases of R175. -/
inductive Phase where
  | empty
  | framed
  | ready
deriving DecidableEq, Repr

/-- The phase a state's flags name; the fourth combination (0, 1) names none. -/
def phase (s : State) : Option Phase :=
  match frameValid s, waveValid s with
  | false, false => some .empty
  | true, false => some .framed
  | true, true => some .ready
  | false, true => none

/-- The phase table of R175: which commands do not fault, given a valid bundle. -/
def phaseAllows : Phase → Instr → Bool
  | .empty, i => i = .nop || i = .encode
  | .framed, i => i = .nop || i = .encode || i = .synth
  | .ready, i => i = .nop || i = .encode || i = .synth || i = .take

/-! ### The invariant of a run -/

/-- What every state of a run from reset satisfies: `WAVE_VALID` never without `FRAME_VALID` (R171, R175), the frame an encoded
one (R86), the waveform the synthesis of an encoded frame (R176), so too each recorded in `delivered` (log entry 4), and the
model's scratch within its widths (log entries 5 and 13; the bounds are those of R8 and R153). -/
structure Inv (s : State) : Prop where
  flags     : waveValid s = true → frameValid s = true
  frame     : ∀ F, s.frame = some F → FrameOk F
  wave      : ∀ W, s.wave = some W → ∃ F, FrameOk F ∧ W = synthesize s.cfg.T F
  delivered : ∀ W ∈ s.delivered, ∃ F, FrameOk F ∧ W = synthesize s.cfg.T F
  acc       : s.scratch.acc.value < 2 ^ s.scratch.acc.width
  segs      : ∀ g ∈ s.scratch.segs, g.dur < 2 ^ s.cfg.durW

/-! ### The environment's side (R199 to R208), as premises only -/

/-- The arming seconds of the scheduler (R200): "current integer second ∈ 19, 39, 59". -/
def armingSeconds : List Nat := [19, 39, 59]

/-- The seconds the scheduler presents (R201, R235, R240): one second after an arming second, second 59 carried to 0. -/
def scheduledSecond (second : Nat) : Bool := armingSeconds.any fun a => (a + 1) % 60 == second

/-- The arming composite (R177, R201): `ENCODE` then `SYNTH`, with `n` NOPs between them. -/
def arming (t : TimeBundle) (n : Nat) : List PortSample :=
  command 1#2 t :: (List.replicate n (command 0#2 t) ++ [command 2#2 t])

/-- What the channel of R208 is assumed to emit for a waveform: `level`, tick by tick. -/
def emitted (W : Waveform) : List (Option Level) := (List.range (totalTicks W)).map (level W)

/-- Run instructions one after the other, stopping at the first fault or refusal: for claims that compare a command with the
table rows it is made of. -/
def execAll : List Instr → State → Host.Outcome State Fault Refusal
  | [], s => .next s
  | i :: is, s =>
    match exec i s with
    | .next t => execAll is t
    | .fault r => .fault r
    | .refused r => .refused r

/-- The instruction row of a symbol value (R142 to R145). -/
def symInstr (x : Symbol) : Instr :=
  match x.toNat with
  | 0 => .sym0
  | 1 => .sym1
  | 2 => .sym2
  | _ => .sym3

/-- The twelve packing rows in the order of R100. -/
def packingRows : List Instr :=
  [.stepMarker, .stepRsv, .stepHour, .stepMin, .stepWday, .stepPm, .stepPar1, .stepDay, .stepMon, .stepYlow, .stepYhi,
    .stepPar2]

/-- The rows a waveform is made of (R140, R146, R147): 19 symbol rows and the trailing segment. -/
def synthesisRows (T : Nat) (F : Frame) : List Instr := (symbols F).map symInstr ++ [.segment .high T]

end Sys2Proof.Machine
end

