-- ==== Sys2Proof/Certificates/Slice0/Obligations.lean ====
section
/-! DEFINITION. Certificates/Slice0/Obligations.lean: the statements for the provers. Each docstring names the rules of the spec it
formalises; "log n" is notes/assumptions/n.md. A statement that rests on one of the model's own choices says so. -/

open Sys2Proof Sys2Proof.Machine

/-! ### Encoding -/

/-- Decoding the word of a well-formed instruction gives it back, every operand at every value (R71, R72, R74, R76; the readings
are log 5, 6, 7). -/
def Obligations.DecodeOfEncodeIsTheInstruction : Prop :=
  ∀ (durW : Nat) (i : Instr), i.wf durW = true → decode durW (encode durW i) = .instr i

/-- The other direction (R71, R72, R74, R76): what decodes is well formed and encodes back to the same word, so no two words of a
reading stand for one instruction. The words of the FRAME_FIELD reading are the model's choice (log 6), and so are the readings
themselves, the one by marker included (log 5, log 7). -/
def Obligations.EncodeOfDecodeIsTheWord : Prop :=
  ∀ (durW : Nat) (w : Word) (i : Instr), decode durW w = .instr i → i.wf durW = true ∧ encode durW i = w

/-- R74's code table, R87, R174: every 2-bit value of `cmd` selects a command. -/
def Obligations.EveryCommandCodeIsAssigned : Prop :=
  ∀ (durW : Nat) (c : BitVec 2), decode durW (Word.ofCmd c) = .instr
    (if c = 0b00#2 then .nop else if c = 0b01#2 then .encode else if c = 0b10#2 then .synth else .take)

/-- A few words and the instructions they decode to. The command, symbol and segment words and the bits of the frame word are written
out from the tables of R74, R72, R76, R71. That `stepWday`'s word is its field's mask is the model's choice (log 6), and so are the
readings, the one that tells a frame by its marker included (log 7). -/
def Obligations.SpecWordsDecode : Prop :=
  decode 32 ⟨.cmd, 0b01⟩ = .instr .encode ∧
  decode 32 ⟨.symbol, 0b10⟩ = .instr .sym2 ∧
  decode 32 ⟨.field, 0x0000F00000⟩ = .instr .stepWday ∧
  decode 32 ⟨.marker, 0b10001011111011010011011111110010001111⟩ = .instr (.marker2
    { hour := 11, min := 59, wday := 4, pm := 1, par1 := 1, day := 31, mon := 12, ylow := 35, yhi := 1, par2 := 1 }) ∧
  decode 32 ⟨.segment, 0x10000000A⟩ = .instr (.segment .high 10)

/-- What the model makes of two patterns the spec never produces: reserved bits set (R71, R84) and marker 3 (R78). That such a word
is rejected by name is the model's choice (log 15), and so are the two readings of a frame word (log 7): reserved bits set are
rejected in both, marker 3 only by the marker reading. -/
def Obligations.ReservedFrameWordsAreRejected : Prop :=
  ∀ (durW : Nat) (F : Frame),
    (F.extractLsb' 34 2 ≠ 0#2 →
      decode durW ⟨.frame, F.toNat⟩ = .rejected .reservedSet ∧ decode durW ⟨.marker, F.toNat⟩ = .rejected .reservedSet) ∧
    (F.extractLsb' 34 2 = 0#2 → F.extractLsb' 36 2 = 3#2 → decode durW ⟨.marker, F.toNat⟩ = .rejected .markerThree)

/-! ### The step -/

/-- A step takes the driven word and executes the decoded instruction whole, on the driven TIME bundle. For the two-bit `cmd` this is
R174; that samples are taken off `script` is log 3, that words of other readings are run too is log 5. -/
def Obligations.StepRunsTheDecodedInstruction : Prop :=
  ∀ (s : State) (p : PortSample) (rest : List PortSample) (i : Instr),
    s.script = p :: rest → p.reset = false → s.faulted = false → decode s.cfg.durW p.word = .instr i →
      step s = exec i { s with script := rest, time := p.time }

/-- R170, log 3: when the host drives nothing, the step is a NOP. -/
def Obligations.StepWithNothingDrivenIsNop : Prop :=
  ∀ s : State, s.script = [] → s.faulted = false → step s = .next s

/-- How a word comes to be run (log 3): the very next step runs it, on the state it was given. -/
def Obligations.PlacedWordRunsNext : Prop :=
  ∀ (s : State) (nbits w : Nat) (i : Instr),
    s.faulted = false → decode s.cfg.durW (tableWord nbits w) = .instr i →
      step (s.withFetchWord nbits w) = exec i s

/-- R174: a two-bit command, driven as a sample of `script` (log 3), is never refused: it completes or ends in a model fault. -/
def Obligations.CommandStepIsNeverRefused : Prop :=
  ∀ (s : State) (c : BitVec 2) (t : TimeBundle) (rest : List PortSample),
    s.script = command c t :: rest → s.faulted = false → ∀ r, step s ≠ .refused r

/-- R230: the reset event in any state, a faulted one included, whatever command it coincides with. R230 is silent on the model's own
fields: that the record `delivered` stays is log 4's choice, that the scratch is emptied is log 5's. -/
def Obligations.ResetEventEmptiesAnyState : Prop :=
  ∀ (s : State) (w : Word) (t : TimeBundle) (rest : List PortSample),
    s.script = resetSample w t :: rest →
      ∃ u, step s = .next u ∧ u.frame = none ∧ u.wave = none ∧ u.faulted = false ∧
        frameValid u = false ∧ waveValid u = false ∧ u.cfg = s.cfg ∧
        u.delivered = s.delivered ∧ u.scratch = Scratch.empty

/-- R33: the mark is set by a step that faults, keeps every later command from being executed, and is left by reset alone. -/
def Obligations.FaultedMarkStopsAllButReset : Prop :=
  (∀ (s : State) (r : Fault), step s = .fault r → (afterStep s).faulted = true) ∧
  (∀ s : State, s.faulted = true → (nextSample s).reset = false →
    step s = .refused .noStepWhileFaulted ∧ (afterStep s).faulted = true ∧
      (afterStep s).frame = s.frame ∧ (afterStep s).wave = s.wave) ∧
  (∀ s : State, s.faulted = true → (nextSample s).reset = true → (afterStep s).faulted = false)

/-- R192: a faulting step writes no register and no flag, and none of the model's own fields but the mark (`delivered`, log 4; the
scratch, log 5; the state after a fault is read with `afterStep`, log 10). -/
def Obligations.FaultingStepWritesNothing : Prop :=
  ∀ (s : State) (r : Fault), step s = .fault r →
    (afterStep s).faulted = true ∧ (afterStep s).frame = s.frame ∧ (afterStep s).wave = s.wave ∧
      frameValid (afterStep s) = frameValid s ∧ waveValid (afterStep s) = waveValid s ∧
      (afterStep s).delivered = s.delivered ∧ (afterStep s).scratch = s.scratch ∧ (afterStep s).cfg = s.cfg

/-- Log 15 (DESIGN CHOICE): a driven word that is no word of its reading is refused by name, its sample is consumed, and nothing
else changes: neither register, flag nor mark. -/
def Obligations.UndecodableWordIsRefusedAndExecutesNothing : Prop :=
  ∀ (s : State) (p : PortSample) (rest : List PortSample) (why : DecodeReject),
    s.script = p :: rest → p.reset = false → s.faulted = false → decode s.cfg.durW p.word = .rejected why →
      step s = .refused (.undecodable why) ∧ afterStep s = { s with script := rest, time := p.time } ∧
        frameValid (afterStep s) = frameValid s ∧ waveValid (afterStep s) = waveValid s

/-- The two grounds of a refused step, the mark of R33 (log 10) and an undecodable word (log 15), and no third; and what any refused
step leaves: all but the inputs, both flags and the mark included. -/
def Obligations.RefusedStepExecutesNothing : Prop :=
  ∀ (s : State) (r : Refusal), step s = .refused r →
    (nextSample s).reset = false ∧
    (r = .noStepWhileFaulted ∧ s.faulted = true ∨
      ∃ why, r = .undecodable why ∧ s.faulted = false ∧ decode s.cfg.durW (nextSample s).word = .rejected why) ∧
    afterStep s = { s with script := s.script.tail, time := (nextSample s).time } ∧
    frameValid (afterStep s) = frameValid s ∧ waveValid (afterStep s) = waveValid s

/-! ### Reset -/

/-- R34: the reset state, and the flags as the presence of the registers' values. -/
def Obligations.ResetStateHoldsNoValue : Prop :=
  State.reset.frame = none ∧ State.reset.wave = none ∧ State.reset.faulted = false ∧
  (∀ s : State, frameValid s = true ↔ ∃ F, s.frame = some F) ∧
  (∀ s : State, waveValid s = true ↔ ∃ W, s.wave = some W)

/-- The invariant of a run holds at reset. The registers' clauses rest on R31, R34; that `delivered` and the scratch start empty is
the model's choice (log 4, log 5). -/
def Obligations.ResetSatisfiesTheInvariant : Prop := Inv State.reset

/-! ### NOP -/

/-- R170. -/
def Obligations.NopLeavesTheStateAsItWas : Prop := ∀ s : State, exec .nop s = .next s

/-! ### ENCODE -/

/-- R100, R115 with the closed form of R116: a valid bundle's frame is written, and nothing else changes. -/
def Obligations.EncodeWritesTheClosedForm : Prop :=
  ∀ s : State, validTime s.time = true →
    exec .encode s = .next { s with frame := some (BitVec.ofNat 38 (closedFrame s.cfg s.time)) } ∧
      closedFrame s.cfg s.time < 2 ^ 38

/-- R122: on a valid bundle every appended value is within its bound; after every step the accumulator is below 2 to its width, at
most 38 bits; no field spills into its neighbour, an earlier accumulator being exactly the upper part of the next; `V12 < 2^38`,
so a 64-bit accumulator loses nothing; and `ENCODE` writes `V12` whole to `FRAME` and nothing else, so no flag records overflow. -/
def Obligations.EncoderNeverOverflows : Prop :=
  ∀ s : State, validTime s.time = true →
    AppendsFit s.cfg s.time ∧
    (∀ k, k ≤ 12 → (accAfterSteps s.cfg s.time k).value < 2 ^ (accAfterSteps s.cfg s.time k).width ∧
      (accAfterSteps s.cfg s.time k).width ≤ 38) ∧
    (∀ k, k < 12 → (accAfterSteps s.cfg s.time k).width < (accAfterSteps s.cfg s.time (k + 1)).width ∧
      (accAfterSteps s.cfg s.time (k + 1)).value /
          2 ^ ((accAfterSteps s.cfg s.time (k + 1)).width - (accAfterSteps s.cfg s.time k).width) =
        (accAfterSteps s.cfg s.time k).value) ∧
    (accAfterSteps s.cfg s.time 12).value < 2 ^ 38 ∧
    (accAfterSteps s.cfg s.time 12).value % 2 ^ 64 = (accAfterSteps s.cfg s.time 12).value ∧
    ∃ F : Frame, exec .encode s = .next { s with frame := some F } ∧ F.toNat = (accAfterSteps s.cfg s.time 12).value

/-- R71 with R78, R79, R80, R81, R82, R83, R84, R85: what each bit of the written frame holds. -/
def Obligations.EncodedFrameHoldsEachField : Prop :=
  ∀ s : State, validTime s.time = true → ∃ F : Frame,
    exec .encode s = .next { s with frame := some F } ∧
    (F.extractLsb' 36 2).toNat = (match s.cfg.markerMode with
      | .lt20 => if s.time.second.toNat < 20 then 0 else if s.time.second.toNat < 40 then 1 else 2
      | .lt21 => if s.time.second.toNat < 21 then 0 else if s.time.second.toNat < 41 then 1 else 2) ∧
    (F.extractLsb' 34 2).toNat = 0 ∧
    (F.extractLsb' 30 4).toNat = s.time.hour24.toNat % 12 ∧
    (F.extractLsb' 24 6).toNat = s.time.minute.toNat ∧
    (F.extractLsb' 20 4).toNat = (match s.cfg.wdayMode with
      | .sun7 => if s.time.wday.toNat = 0 then 7 else s.time.wday.toNat
      | .plus1 => s.time.wday.toNat + 1) ∧
    (F.extractLsb' 19 1).toNat = (if 12 ≤ s.time.hour24.toNat then 1 else 0) ∧
    (F.extractLsb' 18 1).toNat = xorfold 19 (F.extractLsb' 19 19).toNat ∧
    (F.extractLsb' 12 6).toNat = s.time.day.toNat ∧
    (F.extractLsb' 8 4).toNat = s.time.month.toNat ∧
    (F.extractLsb' 2 6).toNat = s.time.year.toNat % 64 ∧
    (F.extractLsb' 1 1).toNat = s.time.year.toNat / 64 ∧
    (F.extractLsb' 0 1).toNat = xorfold 17 (F.extractLsb' 1 17).toNat

/-- R120: an invalid bundle ends in `FLT_TIME_RANGE` with the first port out of range in the fixed order and its value, and
writes no register. -/
def Obligations.EncodeOfInvalidTimeFaults : Prop :=
  ∀ (s : State) (t : TimeBundle) (rest : List PortSample),
    s.script = command 0b01#2 t :: rest → s.faulted = false → validTime t = false →
      ∃ f : TimeField, step s = .fault (.timeRange f (portValue t f)) ∧ inRange f (portValue t f) = false ∧
        (∀ g, [TimeField.year, .month, .day, .hour24, .minute, .second, .wday].idxOf g <
            [TimeField.year, .month, .day, .hour24, .minute, .second, .wday].idxOf f →
          inRange g (portValue t g) = true) ∧
        (afterStep s).frame = s.frame ∧ (afterStep s).wave = s.wave

/-- R75: `valid(t)` is the seven range conditions and nothing else, and with R100 it is exactly when `ENCODE` completes. -/
def Obligations.EncodeCompletesExactlyOnTheSevenRanges : Prop :=
  ∀ s : State, (∃ u, exec .encode s = .next u) ↔
    (s.time.year.toNat ≤ 99 ∧ 1 ≤ s.time.month.toNat ∧ s.time.month.toNat ≤ 12 ∧ 1 ≤ s.time.day.toNat ∧
      s.time.day.toNat ≤ 31 ∧ s.time.hour24.toNat ≤ 23 ∧ s.time.minute.toNat ≤ 59 ∧ s.time.second.toNat ≤ 59 ∧
      s.time.wday.toNat ≤ 6)

/-- R86, R117: the constraints every encoded frame meets, in every configuration, parity of both halves included. -/
def Obligations.EncodedFrameMeetsTheConstraints : Prop :=
  ∀ s : State, validTime s.time = true → ∃ F, exec .encode s = .next { s with frame := some F } ∧
    FrameOk F ∧ parityOk F = true ∧ (symbols F).length = 19

/-- R118: the prefix reading and the second-half reading of `PAR2` name the same bit. -/
def Obligations.PrefixAndSecondHalfParityAgree : Prop :=
  (∀ V7 B : Nat, B < 2 ^ 17 → xorfold 20 V7 = 0 → xorfold 37 (V7 * 2 ^ 17 + B) = xorfold 17 B) ∧
  (∀ (c : Config) (t : TimeBundle), xorfold (firstHalf c t).width (firstHalf c t).value = 0)

/-- R9: counting ones modulo 2 is the shift-and-xor reduction, and leading zeros do not matter. -/
def Obligations.XorfoldIsTheShiftReduction : Prop :=
  ∀ w v : Nat, w ≤ 64 → v < 2 ^ w → xorfold w v = foldReduction v ∧ ∀ w', w ≤ w' → xorfold w' v = xorfold w v

/-- R119: the frame is a function of the bundle and the two modes and of nothing else. -/
def Obligations.FrameDependsOnTimeAndModesOnly : Prop :=
  ∀ s s' : State, s.time = s'.time → s.cfg.wdayMode = s'.cfg.wdayMode → s.cfg.markerMode = s'.cfg.markerMode →
    validTime s.time = true →
      ∃ F, exec .encode s = .next { s with frame := some F } ∧ exec .encode s' = .next { s' with frame := some F }

/-- R119: two valid bundles with one frame, under one weekday mode, agree on every port but the second, and on the second's
sub-block. -/
def Obligations.FrameDeterminesTheTimePorts : Prop :=
  ∀ (c : Config) (t t' : TimeBundle), validTime t = true → validTime t' = true → encodeFrame c t = encodeFrame c t' →
    t.year = t'.year ∧ t.month = t'.month ∧ t.day = t'.day ∧ t.hour24 = t'.hour24 ∧ t.minute = t'.minute ∧
      t.wday = t'.wday ∧ markerField c.markerMode t.second.toNat = markerField c.markerMode t'.second.toNat

/-- R78 read on the table's MARKER rows: which row the encoded frame is a word of (the marker reading is log 7). -/
def Obligations.EncodedFrameIsAWordOfItsMarkerRow : Prop :=
  ∀ (c : Config) (t : TimeBundle), validTime t = true → ∃ r : FrameRest,
    decode c.durW ⟨.marker, (encodeFrame c t).toNat⟩ = .instr
      (match c.markerMode with
        | .lt20 => if t.second.toNat ≤ 19 then .marker0 r else if t.second.toNat ≤ 39 then .marker1 r else .marker2 r
        | .lt21 => if t.second.toNat ≤ 20 then .marker0 r else if t.second.toNat ≤ 40 then .marker1 r else .marker2 r)

/-- R240: the markers of the seconds the scheduler presents, under each boundary mode. -/
def Obligations.MarkersOfTheScheduledSeconds : Prop :=
  ∀ (c : Config) (t : TimeBundle), validTime t = true → scheduledSecond t.second.toNat = true →
    (sym (encodeFrame c t) 0).toNat = (match c.markerMode with
      | .lt20 => if t.second.toNat = 20 then 1 else if t.second.toNat = 40 then 2 else 0
      | .lt21 => if t.second.toNat = 40 then 1 else 0)

/-! ### The packing rows (on the model's scratch, log 5) -/

/-- R102, R104 to R107, R109 to R112: each packing row with an operand port, its port in range, appends its field. Those rules fix the
accumulator each step starts from; that a row runs on its own, on the model's scratch, is log 5, and that it appends to whatever
accumulator is there, in any order, is log 13. -/
def Obligations.PackingRowsAppendTheirField : Prop :=
  ∀ (s : State) (w v : Nat), s.scratch.acc = { width := w, value := v } →
    (s.time.second.toNat ≤ 59 → exec .stepMarker s = .next { s with scratch := { s.scratch with
      acc := { width := w + 2, value := v * 4 + (match s.cfg.markerMode with
        | .lt20 => if s.time.second.toNat < 20 then 0 else if s.time.second.toNat < 40 then 1 else 2
        | .lt21 => if s.time.second.toNat < 21 then 0 else if s.time.second.toNat < 41 then 1 else 2) } } }) ∧
    (s.time.hour24.toNat ≤ 23 → exec .stepHour s = .next { s with scratch := { s.scratch with
      acc := { width := w + 4, value := v * 16 + s.time.hour24.toNat % 12 } } }) ∧
    (s.time.minute.toNat ≤ 59 → exec .stepMin s = .next { s with scratch := { s.scratch with
      acc := { width := w + 6, value := v * 64 + s.time.minute.toNat } } }) ∧
    (s.time.wday.toNat ≤ 6 → exec .stepWday s = .next { s with scratch := { s.scratch with
      acc := { width := w + 4, value := v * 16 + (match s.cfg.wdayMode with
        | .sun7 => if s.time.wday.toNat = 0 then 7 else s.time.wday.toNat
        | .plus1 => s.time.wday.toNat + 1) } } }) ∧
    (s.time.hour24.toNat ≤ 23 → exec .stepPm s = .next { s with scratch := { s.scratch with
      acc := { width := w + 1, value := v * 2 + (if 12 ≤ s.time.hour24.toNat then 1 else 0) } } }) ∧
    (1 ≤ s.time.day.toNat → exec .stepDay s = .next { s with scratch := { s.scratch with
      acc := { width := w + 6, value := v * 64 + s.time.day.toNat } } }) ∧
    (1 ≤ s.time.month.toNat → s.time.month.toNat ≤ 12 → exec .stepMon s = .next { s with scratch := { s.scratch with
      acc := { width := w + 4, value := v * 16 + s.time.month.toNat } } }) ∧
    (s.time.year.toNat ≤ 99 → exec .stepYlow s = .next { s with scratch := { s.scratch with
      acc := { width := w + 6, value := v * 64 + s.time.year.toNat % 64 } } }) ∧
    (s.time.year.toNat ≤ 99 → exec .stepYhi s = .next { s with scratch := { s.scratch with
      acc := { width := w + 1, value := v * 2 + s.time.year.toNat / 64 } } })

/-- R103, R108, R113: the constant row and the two parity rows, whose appended bit makes the fold of the prefix 0. That they run on
their own on the model's scratch is log 5, from any accumulator log 13, and the fold of one wider than 64 bits log 14. -/
def Obligations.ReservedAndParityRowsAppend : Prop :=
  ∀ (s : State) (w v : Nat), s.scratch.acc = { width := w, value := v } →
    exec .stepRsv s = .next { s with scratch := { s.scratch with acc := { width := w + 2, value := 4 * v } } } ∧
    ∃ b, b < 2 ∧ b = xorfold w v ∧ xorfold (w + 1) (v * 2 + b) = 0 ∧
      exec .stepPar1 s = .next { s with scratch := { s.scratch with acc := { width := w + 1, value := v * 2 + b } } } ∧
      exec .stepPar2 s = .next { s with scratch := { s.scratch with acc := { width := w + 1, value := v * 2 + b } } }

/-- Log 8: a packing row whose own operand port is out of its range (R75, R120) faults with that port and its value. -/
def Obligations.PackingRowOutOfRangeFaults : Prop :=
  ∀ s : State,
    (59 < s.time.second.toNat → exec .stepMarker s = .fault (.timeRange .second s.time.second.toNat)) ∧
    (23 < s.time.hour24.toNat → exec .stepHour s = .fault (.timeRange .hour24 s.time.hour24.toNat) ∧
      exec .stepPm s = .fault (.timeRange .hour24 s.time.hour24.toNat)) ∧
    (59 < s.time.minute.toNat → exec .stepMin s = .fault (.timeRange .minute s.time.minute.toNat)) ∧
    (6 < s.time.wday.toNat → exec .stepWday s = .fault (.timeRange .wday s.time.wday.toNat)) ∧
    (s.time.day.toNat = 0 → exec .stepDay s = .fault (.timeRange .day 0)) ∧
    (s.time.month.toNat = 0 ∨ 12 < s.time.month.toNat →
      exec .stepMon s = .fault (.timeRange .month s.time.month.toNat)) ∧
    (99 < s.time.year.toNat → exec .stepYlow s = .fault (.timeRange .year s.time.year.toNat) ∧
      exec .stepYhi s = .fault (.timeRange .year s.time.year.toNat))

/-- R100, R101: the twelve packing rows in order, from the empty accumulator, leave in it the very frame `ENCODE` writes. The rows run
on the model's scratch (log 5). -/
def Obligations.TwelvePackingRowsBuildTheFrame : Prop :=
  ∀ s : State, validTime s.time = true → s.scratch.acc = Acc.empty → ∃ F : Frame,
    execAll packingRows s = .next { s with scratch := { s.scratch with acc := { width := 38, value := F.toNat } } } ∧
    exec .encode s = .next { s with frame := some F }

/-! ### SYNTH -/

/-- R77, R141, R147: the 39 segments `SYNTH` writes, segment by segment, and that it changes nothing else. -/
def Obligations.SynthWritesTheWaveform : Prop :=
  ∀ (s : State) (F : Frame), s.frame = some F → ∃ W : Waveform,
    exec .synth s = .next { s with wave := some W } ∧ W.length = 39 ∧
    (∀ i, i ≤ 18 →
      W[2 * i]? = some { lvl := .low, dur := s.cfg.T * ((F.extractLsb' (36 - 2 * i) 2).toNat + 1) / 10 } ∧
      W[2 * i + 1]? = some
        { lvl := .high, dur := s.cfg.T - s.cfg.T * ((F.extractLsb' (36 - 2 * i) 2).toNat + 1) / 10 }) ∧
    W[38]? = some { lvl := .high, dur := s.cfg.T }

/-- R155, R173: `SYNTH` without a frame and `TAKE` without a waveform end in their model faults and write no register. -/
def Obligations.CommandsWithoutTheirRegisterFault : Prop :=
  ∀ (s : State) (t : TimeBundle) (rest : List PortSample), s.faulted = false →
    (s.script = command 0b10#2 t :: rest → frameValid s = false →
      step s = .fault .noFrame ∧ (afterStep s).frame = s.frame ∧ (afterStep s).wave = s.wave) ∧
    (s.script = command 0b11#2 t :: rest → waveValid s = false →
      step s = .fault .noWave ∧ (afterStep s).frame = s.frame ∧ (afterStep s).wave = s.wave)

/-- R142, R143, R144, R145 with their worked numbers. -/
def Obligations.PulsePairsOfTheFourSymbols : Prop :=
  (∀ T : Nat,
    pulsePair T 0 = [{ lvl := .low, dur := T / 10 }, { lvl := .high, dur := T - T / 10 }] ∧
    pulsePair T 1 = [{ lvl := .low, dur := 2 * T / 10 }, { lvl := .high, dur := T - 2 * T / 10 }] ∧
    pulsePair T 2 = [{ lvl := .low, dur := 3 * T / 10 }, { lvl := .high, dur := T - 3 * T / 10 }] ∧
    pulsePair T 3 = [{ lvl := .low, dur := 4 * T / 10 }, { lvl := .high, dur := T - 4 * T / 10 }] ∧
    (10 ≤ T → 1 ≤ T / 10) ∧ 10 * (4 * T / 10) ≤ 4 * T ∧ 6 * T ≤ 10 * (T - 4 * T / 10)) ∧
  [0, 1, 2, 3].map (pulsePair 10) = [
    [{ lvl := .low, dur := 1 }, { lvl := .high, dur := 9 }], [{ lvl := .low, dur := 2 }, { lvl := .high, dur := 8 }],
    [{ lvl := .low, dur := 3 }, { lvl := .high, dur := 7 }], [{ lvl := .low, dur := 4 }, { lvl := .high, dur := 6 }]] ∧
  [0, 1, 2, 3].map (pulsePair 1000000) = [
    [{ lvl := .low, dur := 100000 }, { lvl := .high, dur := 900000 }],
    [{ lvl := .low, dur := 200000 }, { lvl := .high, dur := 800000 }],
    [{ lvl := .low, dur := 300000 }, { lvl := .high, dur := 700000 }],
    [{ lvl := .low, dur := 400000 }, { lvl := .high, dur := 600000 }]] ∧
  [0, 1, 2, 3].map (pulsePair 32768) = [
    [{ lvl := .low, dur := 3276 }, { lvl := .high, dur := 29492 }],
    [{ lvl := .low, dur := 6553 }, { lvl := .high, dur := 26215 }],
    [{ lvl := .low, dur := 9830 }, { lvl := .high, dur := 22938 }],
    [{ lvl := .low, dur := 13107 }, { lvl := .high, dur := 19661 }]] ∧
  lowTicks 15 1 = 3 ∧ 2 * lowTicks 15 0 = 2

/-- The four symbol rows (log 5): each puts its pulse pair (R142 to R145) after the segments already assembled (R146). -/
def Obligations.SymbolRowsAddTheirPulsePair : Prop :=
  ∀ (s : State) (W : Waveform), s.scratch.segs = W →
    exec .sym0 s = .next { s with scratch := { s.scratch with
      segs := W ++ [{ lvl := .low, dur := s.cfg.T / 10 }, { lvl := .high, dur := s.cfg.T - s.cfg.T / 10 }] } } ∧
    exec .sym1 s = .next { s with scratch := { s.scratch with
      segs := W ++ [{ lvl := .low, dur := 2 * s.cfg.T / 10 }, { lvl := .high, dur := s.cfg.T - 2 * s.cfg.T / 10 }] } } ∧
    exec .sym2 s = .next { s with scratch := { s.scratch with
      segs := W ++ [{ lvl := .low, dur := 3 * s.cfg.T / 10 }, { lvl := .high, dur := s.cfg.T - 3 * s.cfg.T / 10 }] } } ∧
    exec .sym3 s = .next { s with scratch := { s.scratch with
      segs := W ++ [{ lvl := .low, dur := 4 * s.cfg.T / 10 }, { lvl := .high, dur := s.cfg.T - 4 * s.cfg.T / 10 }] } }

/-- R149: the pair of every symbol sums to one second exactly, within its bounds, and the four pairs differ. -/
def Obligations.PulsePairSumsToOneSecond : Prop :=
  ∀ (c : Config) (x : Symbol),
    lowTicks c.T x.toNat + highTicks c.T x.toNat = c.T ∧ 1 ≤ lowTicks c.T x.toNat ∧
    lowTicks c.T x.toNat ≤ 4 * c.T / 10 ∧ c.T - 4 * c.T / 10 ≤ highTicks c.T x.toNat ∧ 6 ≤ highTicks c.T x.toNat ∧
    ∀ y : Symbol, x.toNat < y.toNat → lowTicks c.T x.toNat < lowTicks c.T y.toNat

/-- R150: the waveform lasts exactly 20 seconds and second `i` begins at tick `i * T`, with no drift. -/
def Obligations.EpochLastsTwentySeconds : Prop :=
  ∀ (s : State) (F : Frame), s.frame = some F → ∃ W : Waveform,
    exec .synth s = .next { s with wave := some W } ∧ totalTicks W = 20 * s.cfg.T ∧
    ∀ i, i ≤ 19 → startTick W (2 * i) = i * s.cfg.T

/-- R151: the level function in closed form, and nothing outside the waveform. -/
def Obligations.LevelHasItsClosedForm : Prop :=
  ∀ (c : Config) (F : Frame) (x : Nat),
    (x < 20 * c.T → level (synthesize c.T F) x = some (closedLevel c.T F x)) ∧
    (20 * c.T ≤ x → level (synthesize c.T F) x = none)

/-- R154: exact tenths when 10 divides `T`, the floor otherwise, short by less than one tick. -/
def Obligations.TenthsAreExactWhenTenDividesT : Prop :=
  ∀ (c : Config) (x : Symbol),
    (10 ∣ c.T → lowTicks c.T x.toNat = (x.toNat + 1) * (c.T / 10) ∧
      highTicks c.T x.toNat = (9 - x.toNat) * (c.T / 10)) ∧
    10 * lowTicks c.T x.toNat ≤ (x.toNat + 1) * c.T ∧ (x.toNat + 1) * c.T < 10 * lowTicks c.T x.toNat + 10

/-- R152: the waveform determines the symbol sequence, hence the frame. -/
def Obligations.WaveformDeterminesTheFrame : Prop :=
  ∀ (c : Config) (F G : Frame), synthesize c.T F = synthesize c.T G → F = G

/-- R153: every duration of a waveform fits the register's `DUR_W` bits, and (R149) is at least one tick. -/
def Obligations.DurationsFitTheirRegister : Prop :=
  ∀ (s u : State), exec .synth s = .next u → ∃ W, u.wave = some W ∧ ∀ g ∈ W, 1 ≤ g.dur ∧ g.dur < 2 ^ s.cfg.durW

/-- R140, R146, R147 (rows on the model's scratch, log 5): the rows of a frame's 19 symbols and the trailing SEGMENT row assemble
the very waveform `SYNTH` writes. -/
def Obligations.SymbolRowsBuildTheWaveform : Prop :=
  ∀ (s : State) (F : Frame), s.frame = some F → s.scratch.segs = [] → ∃ W : Waveform,
    execAll (synthesisRows s.cfg.T F) s = .next { s with scratch := { s.scratch with segs := W } } ∧
    exec .synth s = .next { s with wave := some W }

/-! ### TAKE and the order of operations -/

/-- R171, R172: the whole waveform goes to the host, both registers hold no value after, nothing else changes (`delivered` is the
model's record of what was returned, log 4). -/
def Obligations.TakeHandsOverTheWaveform : Prop :=
  ∀ (s : State) (W : Waveform), s.wave = some W →
    exec .take s = .next { s with wave := none, frame := none, delivered := s.delivered ++ [W] }

/-- R55: `ENCODE` and `SYNTH` are idempotent, `TAKE` is not: a second one with no `SYNTH` between faults, whatever other instructions
run between the two (`ENCODE`, and the rows that are no commands, log 5, included). -/
def Obligations.RepeatedCommandsAreIdempotentButTake : Prop :=
  ∀ s u : State,
    (exec .encode s = .next u → exec .encode u = .next u) ∧
    (exec .synth s = .next u → exec .synth u = .next u) ∧
    (exec .take s = .next u → exec .take u = .fault .noWave ∧
      (∀ n, execAll (List.replicate n .nop ++ [.take]) u = .fault .noWave) ∧
      ∀ (between : List Instr) (v : State), Instr.synth ∉ between → execAll between u = .next v →
        exec .take v = .fault .noWave)

/-- R177: arming, `ENCODE` and `SYNTH` with any number of NOPs between, driven as samples of `script` (log 3), from any state that is
not faulted. -/
def Obligations.ArmingLeavesTheFrameAndItsWaveform : Prop :=
  ∀ (s : State) (t : TimeBundle) (n : Nat) (rest : List PortSample),
    s.faulted = false → validTime t = true → s.script = arming t n ++ rest →
      afterSteps (n + 2) s = { s with
        script := rest, time := t,
        frame := some (BitVec.ofNat 38 (closedFrame s.cfg t)),
        wave := some (synthesize s.cfg.T (BitVec.ofNat 38 (closedFrame s.cfg t))) }

/-- R175: the phase table, "commands that do not fault", given a valid bundle. -/
def Obligations.PhaseSaysWhichCommandsComplete : Prop :=
  ∀ (s : State) (p : Phase) (i : Instr),
    phase s = some p → isCommand i = true → validTime s.time = true →
      ((∃ t, exec i s = .next t) ↔ phaseAllows p i = true)

/-- R190, R191 (and log 8 for the packing rows): an instruction completes exactly inside its contract, and is never refused. -/
def Obligations.CompletesExactlyInContract : Prop :=
  ∀ (i : Instr) (s : State), ((∃ t, exec i s = .next t) ↔ inContract i s = true) ∧ ∀ r, exec i s ≠ .refused r

/-! ### Frames and whole-machine rules -/

/-- R27: what sets and clears each flag, over a step: a command, the reset event, a faulting step. (A refused step is
RefusedStepExecutesNothing's.) -/
def Obligations.FlagsFollowTheirTable : Prop :=
  ∀ s : State,
    (∀ u, (nextSample s).reset = true → step s = .next u → frameValid u = false ∧ waveValid u = false) ∧
    (∀ i u, (nextSample s).reset = false → decode s.cfg.durW (nextSample s).word = .instr i → step s = .next u →
      frameValid u = (if i = .encode then true else if i = .take then false else frameValid s) ∧
      waveValid u = (if i = .synth then true else if i = .take then false else waveValid s)) ∧
    (∀ r, step s = .fault r → frameValid (afterStep s) = frameValid s ∧ waveValid (afterStep s) = waveValid s)

/-- R24, R26, R171: only `ENCODE` and `TAKE` change `FRAME`, only `SYNTH` and `TAKE` change `WAVE`, only `TAKE` returns anything
(recorded in `delivered`, log 4); no instruction touches the ports, the mark or the configuration. The rows that are no commands
are log 5. -/
def Obligations.EachRegisterHasItsOwnWriters : Prop :=
  ∀ (i : Instr) (s t : State), exec i s = .next t →
    (i ≠ .encode → i ≠ .take → t.frame = s.frame) ∧
    (i ≠ .synth → i ≠ .take → t.wave = s.wave) ∧
    (i ≠ .take → t.delivered = s.delivered) ∧
    t.cfg = s.cfg ∧ t.time = s.time ∧ t.script = s.script ∧ t.faulted = s.faulted

/-- R29, R237: no step changes the configuration, faulting and refused ones included. -/
def Obligations.NoStepChangesTheConfiguration : Prop :=
  ∀ (s : State) (n : Nat), (afterSteps n s).cfg = s.cfg

/-- Log 5: the rows that are no commands write nothing but the model's scratch. -/
def Obligations.FormatRowsWriteOnlyTheScratch : Prop :=
  ∀ (i : Instr) (s t : State), isCommand i = false → exec i s = .next t →
    t = { s with scratch := t.scratch } ∧ frameValid t = frameValid s ∧ waveValid t = waveValid s

/-- Log 5: a command's outcome does not depend on the model's scratch, and leaves it as it was. -/
def Obligations.CommandsDoNotSeeTheScratch : Prop :=
  ∀ (i : Instr) (s : State) (sc : Scratch), isCommand i = true →
    exec i { s with scratch := sc } = (match exec i s with
      | .next t => .next { t with scratch := sc }
      | .fault r => .fault r
      | .refused r => .refused r)

/-- The FRAME and MARKER rows (R71's bit positions, R78; log 5): the accumulator holds the laid-out frame. -/
def Obligations.FrameRowsLayOutTheirFields : Prop :=
  ∀ (s : State) (k : BitVec 2) (r : FrameRest) (low : Nat),
    low = r.hour.toNat * 2 ^ 30 + r.min.toNat * 2 ^ 24 + r.wday.toNat * 2 ^ 20 + r.pm.toNat * 2 ^ 19 +
      r.par1.toNat * 2 ^ 18 + r.day.toNat * 2 ^ 12 + r.mon.toNat * 2 ^ 8 + r.ylow.toNat * 2 ^ 2 + r.yhi.toNat * 2 +
      r.par2.toNat →
    exec (.frame k r) s = .next { s with scratch := { s.scratch with
      acc := { width := 38, value := k.toNat * 2 ^ 36 + low } } } ∧
    exec (.marker0 r) s = .next { s with scratch := { s.scratch with acc := { width := 38, value := low } } } ∧
    exec (.marker1 r) s = .next { s with scratch := { s.scratch with acc := { width := 38, value := 2 ^ 36 + low } } } ∧
    exec (.marker2 r) s = .next { s with scratch := { s.scratch with acc := { width := 38, value := 2 ^ 37 + low } } }

/-- The SEGMENT row (R76; log 5): the segment joins the waveform under assembly. -/
def Obligations.SegmentRowAddsItsSegment : Prop :=
  ∀ (s : State) (l : Level) (d : Nat), exec (.segment l d) s = .next { s with scratch := { s.scratch with
    segs := s.scratch.segs ++ [{ lvl := l, dur := d }] } }

/-- R60, R53: the read functions, for a waveform of the 39 segments R26 gives it. -/
def Obligations.ReadFunctionsReadTheRegisters : Prop :=
  ∀ s : State,
    (∀ F, s.frame = some F → frameValid s = true ∧ readFrame s = some F ∧
      ∀ i : BitVec 5, readSym s i = if i.toNat ≤ 18 then some (F.extractLsb' (36 - 2 * i.toNat) 2) else none) ∧
    (s.frame = none → frameValid s = false ∧ readFrame s = none ∧ ∀ i, readSym s i = none) ∧
    (∀ W, s.wave = some W → W.length = 39 → waveValid s = true ∧
      ∀ k : BitVec 6, (k.toNat ≤ 38 → ∃ g, W[k.toNat]? = some g ∧ readSeg s k = some g) ∧
        (38 < k.toNat → readSeg s k = none)) ∧
    (s.wave = none → waveValid s = false ∧ ∀ k, readSeg s k = none)

/-- R114: the split into symbols, by slice and by division. -/
def Obligations.SymbolsAreTheFramesBitPairs : Prop :=
  ∀ F : Frame, (symbols F).length = 19 ∧ ∀ i, i ≤ 18 →
    (symbols F)[i]? = some (F.extractLsb' (36 - 2 * i) 2) ∧
    (F.extractLsb' (36 - 2 * i) 2).toNat = F.toNat / 4 ^ (18 - i) % 4

/-- R171, R175, R86, R176: every step keeps the invariant of a run. The clauses on the scratch's widths are about the model's own data,
on which rows run in any order (log 5, log 13), and the clause on `delivered` about its record of what `TAKE` returned (log 4). -/
def Obligations.StepKeepsTheInvariant : Prop :=
  ∀ s t : State, Inv s → step s = .next t → Inv t
end

