-- ==== Sys2Proof/Laws/Decode.lean ====
section
/-! SUPPORT. Laws/Decode.lean: the bits of the frame layout (spec R71), each field of a laid-out frame read back by its
position. -/

namespace Sys2Proof

theorem Level.bit_le (l : Level) : l.bit ≤ 1 := by cases l <;> decide

@[simp] theorem Level.ofBit_bit (l : Level) : Level.ofBit l.bit = l := by cases l <;> rfl

/-- A frame word fits its format (R70). -/
theorem frame_toNat_lt (F : Frame) : F.toNat < 2 ^ Reading.width 32 .frame := F.isLt

/-- The reserved bits of every laid-out frame are 0 (R71, R84). -/
theorem frameLayout_rsv (k : BitVec 2) (r : FrameRest) : (frameLayout k r).extractLsb' 34 2 = 0#2 := by
  ext i hi
  simp only [frameLayout, BitVec.getElem_extractLsb', BitVec.getLsbD_append]
  have : i = 0 ∨ i = 1 := by omega
  rcases this with rfl | rfl <;> simp

/-- The marker bits of a laid-out frame are the marker (R71). -/
theorem frameLayout_marker (k : BitVec 2) (r : FrameRest) : (frameLayout k r).extractLsb' 36 2 = k := by
  ext i hi
  simp only [frameLayout, BitVec.getElem_extractLsb', BitVec.getLsbD_append]
  have : i = 0 ∨ i = 1 := by omega
  rcases this with rfl | rfl <;> simp [BitVec.getLsbD_eq_getElem]

end Sys2Proof
end

