-- ==== Sys2Proof/Laws/State.lean ====
section
/-! SUPPORT. Laws/State.lean: what each named update of the state leaves in each field, one lemma per field, so that no later
proof unfolds a record update; and what the read functions and flags see of them. -/

namespace Sys2Proof.Machine

/-! ### writeFrame -/

@[simp] theorem writeFrame_cfg (F : Frame) (s : State) : (writeFrame F s).cfg = s.cfg := rfl
@[simp] theorem writeFrame_time (F : Frame) (s : State) : (writeFrame F s).time = s.time := rfl
@[simp] theorem writeFrame_frame (F : Frame) (s : State) : (writeFrame F s).frame = some F := rfl
@[simp] theorem writeFrame_wave (F : Frame) (s : State) : (writeFrame F s).wave = s.wave := rfl
@[simp] theorem writeFrame_faulted (F : Frame) (s : State) : (writeFrame F s).faulted = s.faulted := rfl
@[simp] theorem writeFrame_script (F : Frame) (s : State) : (writeFrame F s).script = s.script := rfl
@[simp] theorem writeFrame_delivered (F : Frame) (s : State) : (writeFrame F s).delivered = s.delivered := rfl
@[simp] theorem writeFrame_scratch (F : Frame) (s : State) : (writeFrame F s).scratch = s.scratch := rfl

/-! ### writeWave -/

@[simp] theorem writeWave_cfg (W : Waveform) (s : State) : (writeWave W s).cfg = s.cfg := rfl
@[simp] theorem writeWave_time (W : Waveform) (s : State) : (writeWave W s).time = s.time := rfl
@[simp] theorem writeWave_frame (W : Waveform) (s : State) : (writeWave W s).frame = s.frame := rfl
@[simp] theorem writeWave_wave (W : Waveform) (s : State) : (writeWave W s).wave = some W := rfl
@[simp] theorem writeWave_faulted (W : Waveform) (s : State) : (writeWave W s).faulted = s.faulted := rfl
@[simp] theorem writeWave_script (W : Waveform) (s : State) : (writeWave W s).script = s.script := rfl
@[simp] theorem writeWave_delivered (W : Waveform) (s : State) : (writeWave W s).delivered = s.delivered := rfl
@[simp] theorem writeWave_scratch (W : Waveform) (s : State) : (writeWave W s).scratch = s.scratch := rfl

/-! ### handOver -/

@[simp] theorem handOver_cfg (W : Waveform) (s : State) : (handOver W s).cfg = s.cfg := rfl
@[simp] theorem handOver_time (W : Waveform) (s : State) : (handOver W s).time = s.time := rfl
@[simp] theorem handOver_frame (W : Waveform) (s : State) : (handOver W s).frame = none := rfl
@[simp] theorem handOver_wave (W : Waveform) (s : State) : (handOver W s).wave = none := rfl
@[simp] theorem handOver_faulted (W : Waveform) (s : State) : (handOver W s).faulted = s.faulted := rfl
@[simp] theorem handOver_script (W : Waveform) (s : State) : (handOver W s).script = s.script := rfl
@[simp] theorem handOver_delivered (W : Waveform) (s : State) : (handOver W s).delivered = s.delivered ++ [W] := rfl
@[simp] theorem handOver_scratch (W : Waveform) (s : State) : (handOver W s).scratch = s.scratch := rfl

/-! ### setAcc -/

@[simp] theorem setAcc_cfg (V : Acc) (s : State) : (setAcc V s).cfg = s.cfg := rfl
@[simp] theorem setAcc_time (V : Acc) (s : State) : (setAcc V s).time = s.time := rfl
@[simp] theorem setAcc_frame (V : Acc) (s : State) : (setAcc V s).frame = s.frame := rfl
@[simp] theorem setAcc_wave (V : Acc) (s : State) : (setAcc V s).wave = s.wave := rfl
@[simp] theorem setAcc_faulted (V : Acc) (s : State) : (setAcc V s).faulted = s.faulted := rfl
@[simp] theorem setAcc_script (V : Acc) (s : State) : (setAcc V s).script = s.script := rfl
@[simp] theorem setAcc_delivered (V : Acc) (s : State) : (setAcc V s).delivered = s.delivered := rfl
@[simp] theorem setAcc_scratch (V : Acc) (s : State) : (setAcc V s).scratch = { s.scratch with acc := V } := rfl

/-! ### addSegments -/

@[simp] theorem addSegments_cfg (g : Waveform) (s : State) : (addSegments g s).cfg = s.cfg := rfl
@[simp] theorem addSegments_time (g : Waveform) (s : State) : (addSegments g s).time = s.time := rfl
@[simp] theorem addSegments_frame (g : Waveform) (s : State) : (addSegments g s).frame = s.frame := rfl
@[simp] theorem addSegments_wave (g : Waveform) (s : State) : (addSegments g s).wave = s.wave := rfl
@[simp] theorem addSegments_faulted (g : Waveform) (s : State) : (addSegments g s).faulted = s.faulted := rfl
@[simp] theorem addSegments_script (g : Waveform) (s : State) : (addSegments g s).script = s.script := rfl
@[simp] theorem addSegments_delivered (g : Waveform) (s : State) : (addSegments g s).delivered = s.delivered := rfl
@[simp] theorem addSegments_scratch (g : Waveform) (s : State) : (addSegments g s).scratch = { s.scratch with segs := s.scratch.segs ++ g } := rfl

/-! ### markFaulted -/

@[simp] theorem markFaulted_cfg (s : State) : (markFaulted s).cfg = s.cfg := rfl
@[simp] theorem markFaulted_time (s : State) : (markFaulted s).time = s.time := rfl
@[simp] theorem markFaulted_frame (s : State) : (markFaulted s).frame = s.frame := rfl
@[simp] theorem markFaulted_wave (s : State) : (markFaulted s).wave = s.wave := rfl
@[simp] theorem markFaulted_faulted (s : State) : (markFaulted s).faulted = true := rfl
@[simp] theorem markFaulted_script (s : State) : (markFaulted s).script = s.script := rfl
@[simp] theorem markFaulted_delivered (s : State) : (markFaulted s).delivered = s.delivered := rfl
@[simp] theorem markFaulted_scratch (s : State) : (markFaulted s).scratch = s.scratch := rfl

/-! ### resetEvent -/

@[simp] theorem resetEvent_cfg (s : State) : (resetEvent s).cfg = s.cfg := rfl
@[simp] theorem resetEvent_time (s : State) : (resetEvent s).time = s.time := rfl
@[simp] theorem resetEvent_frame (s : State) : (resetEvent s).frame = none := rfl
@[simp] theorem resetEvent_wave (s : State) : (resetEvent s).wave = none := rfl
@[simp] theorem resetEvent_faulted (s : State) : (resetEvent s).faulted = false := rfl
@[simp] theorem resetEvent_script (s : State) : (resetEvent s).script = s.script := rfl
@[simp] theorem resetEvent_delivered (s : State) : (resetEvent s).delivered = s.delivered := rfl
@[simp] theorem resetEvent_scratch (s : State) : (resetEvent s).scratch = Scratch.empty := rfl

/-! ### sampled -/

@[simp] theorem sampled_cfg (s : State) : (sampled s).cfg = s.cfg := rfl
@[simp] theorem sampled_time (s : State) : (sampled s).time = (nextSample s).time := rfl
@[simp] theorem sampled_frame (s : State) : (sampled s).frame = s.frame := rfl
@[simp] theorem sampled_wave (s : State) : (sampled s).wave = s.wave := rfl
@[simp] theorem sampled_faulted (s : State) : (sampled s).faulted = s.faulted := rfl
@[simp] theorem sampled_script (s : State) : (sampled s).script = s.script.tail := rfl
@[simp] theorem sampled_delivered (s : State) : (sampled s).delivered = s.delivered := rfl
@[simp] theorem sampled_scratch (s : State) : (sampled s).scratch = s.scratch := rfl

/-! ### The flags -/

@[simp] theorem frameValid_writeFrame (F : Frame) (s : State) : frameValid (writeFrame F s) = true := rfl
@[simp] theorem waveValid_writeWave (W : Waveform) (s : State) : waveValid (writeWave W s) = true := rfl
@[simp] theorem waveValid_writeFrame (F : Frame) (s : State) : waveValid (writeFrame F s) = waveValid s := rfl
@[simp] theorem frameValid_writeWave (W : Waveform) (s : State) : frameValid (writeWave W s) = frameValid s := rfl
@[simp] theorem frameValid_handOver (W : Waveform) (s : State) : frameValid (handOver W s) = false := rfl
@[simp] theorem waveValid_handOver (W : Waveform) (s : State) : waveValid (handOver W s) = false := rfl
@[simp] theorem frameValid_setAcc (V : Acc) (s : State) : frameValid (setAcc V s) = frameValid s := rfl
@[simp] theorem waveValid_setAcc (V : Acc) (s : State) : waveValid (setAcc V s) = waveValid s := rfl
@[simp] theorem frameValid_addSegments (g : Waveform) (s : State) : frameValid (addSegments g s) = frameValid s := rfl
@[simp] theorem waveValid_addSegments (g : Waveform) (s : State) : waveValid (addSegments g s) = waveValid s := rfl
@[simp] theorem frameValid_resetEvent (s : State) : frameValid (resetEvent s) = false := rfl
@[simp] theorem waveValid_resetEvent (s : State) : waveValid (resetEvent s) = false := rfl
@[simp] theorem frameValid_sampled (s : State) : frameValid (sampled s) = frameValid s := rfl
@[simp] theorem waveValid_sampled (s : State) : waveValid (sampled s) = waveValid s := rfl

/-- The flag is the presence of the register's value (R34). -/
theorem frameValid_iff (s : State) : frameValid s = true ↔ ∃ F, s.frame = some F := Option.isSome_iff_exists

theorem waveValid_iff (s : State) : waveValid s = true ↔ ∃ W, s.wave = some W := Option.isSome_iff_exists

/-! ### The accumulator -/

@[simp] theorem append_width (V : Acc) (n x : Nat) : (append V n x).width = V.width + n := rfl
@[simp] theorem append_value (V : Acc) (n x : Nat) : (append V n x).value = V.value * 2 ^ n + x := rfl

/-- An append of a value that fits its field keeps the accumulator within its width (R8). -/
theorem append_fits {V : Acc} {n x : Nat} (hV : V.value < 2 ^ V.width) (hx : x < 2 ^ n) :
    (append V n x).value < 2 ^ (append V n x).width := by
  have h : V.value * 2 ^ n + 2 ^ n ≤ 2 ^ V.width * 2 ^ n := by
    rw [← Nat.succ_mul]
    exact Nat.mul_le_mul_right _ hV
  simp only [append_width, append_value, Nat.pow_add]
  omega

/-! ### The inputs -/

/-- With nothing driven, the next sample is the idle one (R170). -/
@[simp] theorem nextSample_nil (s : State) (h : s.script = []) : nextSample s = idleSample s := by
  simp [nextSample, h]

/-- Otherwise it is the head of what the host drives. -/
theorem nextSample_cons {s : State} {p : PortSample} {rest : List PortSample} (h : s.script = p :: rest) :
    nextSample s = p := by
  simp [nextSample, h]

theorem sampled_cons {s : State} {p : PortSample} {rest : List PortSample} (h : s.script = p :: rest) :
    sampled s = { s with script := rest, time := p.time } := by
  simp [sampled, nextSample, h]

end Sys2Proof.Machine
end

