-- ==== Sys2Proof/Laws/Encoder.lean ====
section
/-! SUPPORT. Laws/Encoder.lean: what the encoder's operations can do, said once: the parity fold, the bounds of every appended
value (spec R122), and the outcomes of `ENCODE` and of a packing step. -/

namespace Sys2Proof.Machine

/-! ### The parity fold -/

theorem xorfold_lt_two (w v : Nat) : xorfold w v < 2 := Nat.mod_lt _ (by decide)

theorem onesCount_zero (w : Nat) : onesCount w 0 = 0 := by
  induction w with
  | zero => rfl
  | succ w ih => simp [onesCount, ih]

/-- Counting splits at the field boundary of an append. -/
theorem onesCount_append (w n v x : Nat) (hx : x < 2 ^ n) :
    onesCount (w + n) (v * 2 ^ n + x) = onesCount w v + onesCount n x := by
  induction n generalizing x with
  | zero => simp at hx; simp [hx, onesCount]
  | succ n ih =>
    have hx2 : x / 2 < 2 ^ n := by rw [Nat.pow_succ] at hx; omega
    have hdiv : (v * 2 ^ (n + 1) + x) / 2 = v * 2 ^ n + x / 2 := by
      rw [Nat.pow_succ, ← Nat.mul_assoc]; omega
    have hmod : (v * 2 ^ (n + 1) + x) % 2 = x % 2 := by
      rw [Nat.pow_succ, ← Nat.mul_assoc]; omega
    rw [← Nat.add_assoc, onesCount, hdiv, hmod, ih _ hx2, onesCount]
    omega

/-- The fold of an append is the sum, modulo 2, of the folds of its parts (R118's step). -/
theorem xorfold_append (w n v x : Nat) (hx : x < 2 ^ n) :
    xorfold (w + n) (v * 2 ^ n + x) = (xorfold w v + xorfold n x) % 2 := by
  simp only [xorfold, onesCount_append w n v x hx]
  omega

/-- A bit folds to itself. -/
theorem xorfold_bit {b : Nat} (hb : b < 2) : xorfold 1 b = b := by
  simp only [xorfold, onesCount]
  omega

/-! ### Bounds of the appended values (R122) -/

theorem markerField_le (m : MarkerMode) (v : Nat) : markerField m v ≤ 2 := by
  cases m <;> simp only [markerField] <;> split <;> (try split) <;> omega

theorem hourField_le (v : Nat) : hourField v ≤ 11 := by
  simp only [hourField]; omega

theorem pmField_le (v : Nat) : pmField v ≤ 1 := by
  simp only [pmField]; split <;> omega

theorem wdayField_le (m : WdayMode) {v : Nat} (h : v ≤ 6) : wdayField m v ≤ 7 := by
  cases m <;> simp only [wdayField] <;> (try split) <;> omega

theorem wdayField_pos (m : WdayMode) (v : Nat) : 1 ≤ wdayField m v := by
  cases m <;> simp only [wdayField] <;> (try split) <;> omega

theorem ylowField_lt (v : Nat) : ylowField v < 64 := Nat.mod_lt _ (by decide)

/-! ### Validity -/

/-- A bundle is valid exactly when no port is reported out of range (R75, R120). -/
theorem firstBadField_eq_none_iff (t : TimeBundle) : firstBadField t = none ↔ validTime t = true := by
  simp [firstBadField, validTime, List.find?_eq_none]

/-- The reported port is out of its range. -/
theorem firstBadField_some {t : TimeBundle} {f : TimeField} (h : firstBadField t = some f) :
    inRange f (portValue t f) = false := by
  have := List.find?_some h
  simpa using this

/-- `valid(t)` as the seven conditions of R75. -/
theorem validTime_iff (t : TimeBundle) : validTime t = true ↔
    t.year.toNat ≤ 99 ∧ (1 ≤ t.month.toNat ∧ t.month.toNat ≤ 12) ∧ (1 ≤ t.day.toNat ∧ t.day.toNat ≤ 31) ∧
      t.hour24.toNat ≤ 23 ∧ t.minute.toNat ≤ 59 ∧ t.second.toNat ≤ 59 ∧ t.wday.toNat ≤ 6 := by
  simp only [validTime, fieldOrder, List.all_cons, List.all_nil, inRange, portValue, Bool.and_eq_true,
    decide_eq_true_eq, Bool.and_true]

/-! ### Outcomes -/

/-- Everything `ENCODE` can do when it answers a next state. -/
theorem execEncode_next {s t : State} (h : execEncode s = .next t) :
    validTime s.time = true ∧ t = writeFrame (encodeFrame s.cfg s.time) s := by
  unfold execEncode at h
  split at h
  · cases h
  · rename_i hnone
    cases h
    exact ⟨(firstBadField_eq_none_iff _).1 hnone, rfl⟩

/-- Everything a packing step with an operand port can do when it answers a next state. -/
theorem packFrom_next {f : TimeField} {pack : Acc → Acc} {s t : State} (h : packFrom f pack s = .next t) :
    inRange f (portValue s.time f) = true ∧ t = setAcc (pack s.scratch.acc) s := by
  unfold packFrom at h
  split at h
  · cases h; exact ⟨‹_›, rfl⟩
  · cases h

end Sys2Proof.Machine
end

