-- ==== Sys2Proof/Laws/PerInstr.lean ====
section
/-! SUPPORT. Laws/PerInstr.lean: statements made instruction by instruction. Family EncodedFits: the word of a well-formed
instruction fits the length of its format (spec R70, R88). -/

namespace Sys2Proof.Laws.EncodedFits

/-- The word of the instruction has no bit above its format's length. -/
def Statement (i : Instr) : Prop :=
  ∀ durW, i.wf durW = true → (encode durW i).bits < 2 ^ (encode durW i).reading.width durW

theorem nop : Statement .nop := fun _ _ => (by decide : 0b00 < 2 ^ 2)

theorem encode : Statement .encode := fun _ _ => (by decide : 0b01 < 2 ^ 2)

theorem synth : Statement .synth := fun _ _ => (by decide : 0b10 < 2 ^ 2)

theorem take : Statement .take := fun _ _ => (by decide : 0b11 < 2 ^ 2)

theorem sym0 : Statement .sym0 := fun _ _ => (by decide : 0b00 < 2 ^ 2)

theorem sym1 : Statement .sym1 := fun _ _ => (by decide : 0b01 < 2 ^ 2)

theorem sym2 : Statement .sym2 := fun _ _ => (by decide : 0b10 < 2 ^ 2)

theorem sym3 : Statement .sym3 := fun _ _ => (by decide : 0b11 < 2 ^ 2)

theorem frame (k : BitVec 2) (r : FrameRest) : Statement (.frame k r) :=
  fun _ _ => (frameLayout k r).isLt

theorem stepMarker : Statement .stepMarker := fun _ _ => (by decide : 0x3000000000 < 2 ^ 38)

theorem stepRsv : Statement .stepRsv := fun _ _ => (by decide : 0x0C00000000 < 2 ^ 38)

theorem stepHour : Statement .stepHour := fun _ _ => (by decide : 0x03C0000000 < 2 ^ 38)

theorem stepMin : Statement .stepMin := fun _ _ => (by decide : 0x003F000000 < 2 ^ 38)

theorem stepWday : Statement .stepWday := fun _ _ => (by decide : 0x0000F00000 < 2 ^ 38)

theorem stepPm : Statement .stepPm := fun _ _ => (by decide : 0x0000080000 < 2 ^ 38)

theorem stepPar1 : Statement .stepPar1 := fun _ _ => (by decide : 0x0000040000 < 2 ^ 38)

theorem stepDay : Statement .stepDay := fun _ _ => (by decide : 0x000003F000 < 2 ^ 38)

theorem stepMon : Statement .stepMon := fun _ _ => (by decide : 0x0000000F00 < 2 ^ 38)

theorem stepYlow : Statement .stepYlow := fun _ _ => (by decide : 0x00000000FC < 2 ^ 38)

theorem stepYhi : Statement .stepYhi := fun _ _ => (by decide : 0x0000000002 < 2 ^ 38)

theorem stepPar2 : Statement .stepPar2 := fun _ _ => (by decide : 0x0000000001 < 2 ^ 38)

theorem marker0 (r : FrameRest) : Statement (.marker0 r) :=
  fun _ _ => (frameLayout 0#2 r).isLt

theorem marker1 (r : FrameRest) : Statement (.marker1 r) :=
  fun _ _ => (frameLayout 1#2 r).isLt

theorem marker2 (r : FrameRest) : Statement (.marker2 r) :=
  fun _ _ => (frameLayout 2#2 r).isLt

theorem segment (l : Level) (d : Nat) : Statement (.segment l d) := by
  intro durW h
  have hd : d < 2 ^ durW := of_decide_eq_true h
  have hl : l.bit * 2 ^ durW ≤ 1 * 2 ^ durW := Nat.mul_le_mul_right _ l.bit_le
  show l.bit * 2 ^ durW + d < 2 ^ (1 + durW)
  rw [Nat.pow_add, Nat.pow_one]
  omega

end Sys2Proof.Laws.EncodedFits
end

