-- ==== Sys2Proof/Laws/Synthesizer.lean ====
section
/-! SUPPORT. Laws/Synthesizer.lean: what the synthesizer's and the hand-off's operations can do, said once, and the arithmetic of
one pulse pair. -/

namespace Sys2Proof.Machine

/-- `low(s)` never exceeds the second, for a symbol value (R145: "the subtraction never goes negative"). -/
theorem lowTicks_le (T s : Nat) (hs : s ≤ 3) : lowTicks T s ≤ T := by
  have h : T * (s + 1) ≤ T * 4 := Nat.mul_le_mul_left _ (by omega)
  simp only [lowTicks]
  omega

@[simp] theorem totalTicks_nil : totalTicks [] = 0 := rfl

@[simp] theorem totalTicks_cons (g : Segment) (W : Waveform) : totalTicks (g :: W) = g.dur + totalTicks W := by
  simp [totalTicks]

theorem totalTicks_append (U W : Waveform) : totalTicks (U ++ W) = totalTicks U + totalTicks W := by
  simp [totalTicks]

@[simp] theorem pulsePair_length (T s : Nat) : (pulsePair T s).length = 2 := rfl

@[simp] theorem symbols_length (F : Frame) : (symbols F).length = 19 := by simp [symbols]

theorem symbol_le (x : Symbol) : x.toNat ≤ 3 := by have := x.isLt; omega

/-- Segments of a run of pulse pairs. -/
theorem pairs_length (T : Nat) (xs : List Symbol) :
    (xs.flatMap fun x => pulsePair T x.toNat).length = 2 * xs.length := by
  induction xs with
  | nil => rfl
  | cons x xs ih => simp only [List.flatMap_cons, List.length_append, pulsePair_length, ih, List.length_cons]; omega

/-- A level inside the first segment. -/
theorem level_cons_lt {g : Segment} {W : Waveform} {x : Nat} (h : x < g.dur) : level (g :: W) x = some g.lvl := by
  simp [level, h]

/-- A level after the first segment. -/
theorem level_cons_ge {g : Segment} {W : Waveform} {x : Nat} (h : g.dur ≤ x) :
    level (g :: W) x = level W (x - g.dur) := by
  simp [level, Nat.not_lt.2 h]

/-- Everything `SYNTH` can do when it answers a next state. -/
theorem execSynth_next {s t : State} (h : execSynth s = .next t) :
    ∃ F, s.frame = some F ∧ t = writeWave (synthesize s.cfg.T F) s := by
  unfold execSynth at h
  split at h
  · cases h
  · cases h; exact ⟨_, ‹_›, rfl⟩

/-- Everything `TAKE` can do when it answers a next state. -/
theorem execTake_next {s t : State} (h : execTake s = .next t) :
    ∃ W, s.wave = some W ∧ t = handOver W s := by
  unfold execTake at h
  split at h
  · cases h
  · cases h; exact ⟨_, ‹_›, rfl⟩

end Sys2Proof.Machine
end

