-- ==== Sys2Proof/Laws/Step.lean ====
section
/-! SUPPORT. Laws/Step.lean: what one instruction and one step can do, said once; later proofs about `exec` and `step` cite these
lemmas instead of unfolding them. -/

namespace Sys2Proof.Machine

/-- Everything an instruction can do when it answers a next state: a command's own write (R170, R115, R148, R171), one append of
a value that fits its field, a frame word in the accumulator, a pulse pair, or the given segment. -/
theorem exec_next {i : Instr} {s t : State} (h : exec i s = .next t) :
    (i = .nop ∧ t = s) ∨
    (i = .encode ∧ validTime s.time = true ∧ t = writeFrame (encodeFrame s.cfg s.time) s) ∨
    (i = .synth ∧ ∃ F, s.frame = some F ∧ t = writeWave (synthesize s.cfg.T F) s) ∨
    (i = .take ∧ ∃ W, s.wave = some W ∧ t = handOver W s) ∨
    (isCommand i = false ∧ ∃ n x, x < 2 ^ n ∧ t = setAcc (append s.scratch.acc n x) s) ∨
    (isCommand i = false ∧ ∃ F : Frame, t = setAcc (accOfFrame F) s) ∨
    (isCommand i = false ∧ ∃ x, x ≤ 3 ∧ t = addSegments (pulsePair s.cfg.T x) s) ∨
    (∃ l d, i = .segment l d ∧ t = addSegments [{ lvl := l, dur := d }] s) := by
  cases i with
  | nop => cases h; exact .inl ⟨rfl, rfl⟩
  | encode => exact .inr (.inl ⟨rfl, execEncode_next h⟩)
  | synth => exact .inr (.inr (.inl ⟨rfl, execSynth_next h⟩))
  | take => exact .inr (.inr (.inr (.inl ⟨rfl, execTake_next h⟩)))
  | sym0 => cases h; exact .inr (.inr (.inr (.inr (.inr (.inr (.inl ⟨rfl, 0, by omega, rfl⟩))))))
  | sym1 => cases h; exact .inr (.inr (.inr (.inr (.inr (.inr (.inl ⟨rfl, 1, by omega, rfl⟩))))))
  | sym2 => cases h; exact .inr (.inr (.inr (.inr (.inr (.inr (.inl ⟨rfl, 2, by omega, rfl⟩))))))
  | sym3 => cases h; exact .inr (.inr (.inr (.inr (.inr (.inr (.inl ⟨rfl, 3, by omega, rfl⟩))))))
  | segment l d => cases h; exact .inr (.inr (.inr (.inr (.inr (.inr (.inr ⟨l, d, rfl, rfl⟩))))))
  | frame k r => cases h; exact .inr (.inr (.inr (.inr (.inr (.inl ⟨rfl, _, rfl⟩)))))
  | marker0 r => cases h; exact .inr (.inr (.inr (.inr (.inr (.inl ⟨rfl, _, rfl⟩)))))
  | marker1 r => cases h; exact .inr (.inr (.inr (.inr (.inr (.inl ⟨rfl, _, rfl⟩)))))
  | marker2 r => cases h; exact .inr (.inr (.inr (.inr (.inr (.inl ⟨rfl, _, rfl⟩)))))
  | stepRsv => cases h; exact .inr (.inr (.inr (.inr (.inl ⟨rfl, 2, rsvField, by decide, rfl⟩))))
  | stepPar1 => cases h; exact .inr (.inr (.inr (.inr (.inl ⟨rfl, 1, _, xorfold_lt_two _ _, rfl⟩))))
  | stepPar2 => cases h; exact .inr (.inr (.inr (.inr (.inl ⟨rfl, 1, _, xorfold_lt_two _ _, rfl⟩))))
  | stepMarker =>
    obtain ⟨-, rfl⟩ := packFrom_next h
    exact .inr (.inr (.inr (.inr (.inl ⟨rfl, 2, _, by have := markerField_le s.cfg.markerMode s.time.second.toNat; omega, rfl⟩))))
  | stepHour =>
    obtain ⟨-, rfl⟩ := packFrom_next h
    exact .inr (.inr (.inr (.inr (.inl ⟨rfl, 4, _, by have := hourField_le s.time.hour24.toNat; omega, rfl⟩))))
  | stepMin =>
    obtain ⟨-, rfl⟩ := packFrom_next h
    exact .inr (.inr (.inr (.inr (.inl ⟨rfl, 6, _, s.time.minute.isLt, rfl⟩))))
  | stepWday =>
    obtain ⟨hr, rfl⟩ := packFrom_next h
    have hw : s.time.wday.toNat ≤ 6 := of_decide_eq_true hr
    exact .inr (.inr (.inr (.inr (.inl ⟨rfl, 4, _, by have := wdayField_le s.cfg.wdayMode hw; omega, rfl⟩))))
  | stepPm =>
    obtain ⟨-, rfl⟩ := packFrom_next h
    exact .inr (.inr (.inr (.inr (.inl ⟨rfl, 1, _, by have := pmField_le s.time.hour24.toNat; omega, rfl⟩))))
  | stepDay =>
    obtain ⟨-, rfl⟩ := packFrom_next h
    exact .inr (.inr (.inr (.inr (.inl ⟨rfl, 6, _, by have := s.time.day.isLt; omega, rfl⟩))))
  | stepMon =>
    obtain ⟨-, rfl⟩ := packFrom_next h
    exact .inr (.inr (.inr (.inr (.inl ⟨rfl, 4, _, s.time.month.isLt, rfl⟩))))
  | stepYlow =>
    obtain ⟨-, rfl⟩ := packFrom_next h
    exact .inr (.inr (.inr (.inr (.inl ⟨rfl, 6, _, ylowField_lt _, rfl⟩))))
  | stepYhi =>
    obtain ⟨-, rfl⟩ := packFrom_next h
    have hb : yhiField s.time.year.toNat < 2 ^ 1 := by
      have := s.time.year.isLt
      simp only [yhiField]; omega
    exact .inr (.inr (.inr (.inr (.inl ⟨rfl, 1, _, hb, rfl⟩))))

/-- Everything a step can do when it answers a next state: the reset event, or one decoded instruction. -/
theorem step_next {s t : State} (h : step s = .next t) :
    ((nextSample s).reset = true ∧ t = resetEvent (sampled s)) ∨
    ((nextSample s).reset = false ∧ s.faulted = false ∧
      ∃ i, decode s.cfg.durW (nextSample s).word = .instr i ∧ exec i (sampled s) = .next t) := by
  unfold step at h
  split at h
  · cases h; exact .inl ⟨‹_›, rfl⟩
  · rename_i hr
    split at h
    · cases h
    · rename_i hf
      split at h
      · cases h
      · exact .inr ⟨by simpa using hr, by simpa using hf, _, ‹_›, h⟩

/-! ### The accumulators of R100 -/

@[simp] theorem accAfterSteps_zero (c : Config) (t : TimeBundle) : accAfterSteps c t 0 = Acc.empty := rfl

@[simp] theorem accAfterSteps_seven (c : Config) (t : TimeBundle) : accAfterSteps c t 7 = firstHalf c t := rfl

@[simp] theorem accAfterSteps_twelve (c : Config) (t : TimeBundle) : accAfterSteps c t 12 = encodeAcc c t := rfl

/-- Everything one more packing step does to the accumulator. -/
theorem accAfterSteps_succ (c : Config) (t : TimeBundle) {k : Nat} {pack : Acc → Acc} (h : (packSteps c t)[k]? = some pack) :
    accAfterSteps c t (k + 1) = pack (accAfterSteps c t k) := by
  simp only [accAfterSteps, List.take_add_one, h, Option.toList_some, List.foldl_append, List.foldl_cons, List.foldl_nil]

/-- The accumulator before an append is the upper part of the one after it (R122: no spill). -/
theorem append_upper (V : Acc) {n x : Nat} (hx : x < 2 ^ n) : (append V n x).value / 2 ^ n = V.value := by
  rw [append_value, Nat.mul_comm, Nat.mul_add_div (Nat.two_pow_pos n), Nat.div_eq_of_lt hx, Nat.add_zero]

/-! ### Running several instructions -/

/-- `execAll` over a concatenation. -/
theorem execAll_append (is js : List Instr) (s : State) :
    execAll (is ++ js) s = match execAll is s with
      | .next t => execAll js t
      | .fault r => .fault r
      | .refused r => .refused r := by
  induction is generalizing s with
  | nil => rfl
  | cons i is ih =>
    simp only [List.cons_append, execAll]
    cases exec i s with
    | next t => exact ih t
    | fault r => rfl
    | refused r => rfl

end Sys2Proof.Machine
end

