-- ==== Sys2Proof/Machine/Printer.lean ====
section
/-! DEFINITION. Machine/Printer.lean: the textual forms of spec R89, as lists of characters. The spec says "a model's printer may
adopt it"; this one does. -/

namespace Sys2Proof.Machine

/-- A decimal number. -/
def showNat (n : Nat) : List Char := Nat.toDigits 10 n

/-- One hexadecimal digit, capital letters as in the examples of R89. -/
def hexChar (d : Nat) : Char :=
  ['0', '1', '2', '3', '4', '5', '6', '7', '8', '9', 'A', 'B', 'C', 'D', 'E', 'F'].getD d '?'

/-- A frame: "ten hexadecimal digits with prefix `0x`, the 38-bit value zero-extended to 40 bits". -/
def showFrame (F : Frame) : List Char :=
  ['0', 'x'] ++ (List.range 10).map fun j => hexChar (F.toNat / 16 ^ (9 - j) % 16)

/-- A frame in binary: "38 digits, bit 37 first". -/
def showFrameBinary (F : Frame) : List Char :=
  (List.range 38).map fun j => if F.getLsbD (37 - j) then '1' else '0'

/-- A symbol sequence: "19 quaternary digits, `SYM[0]` first". -/
def showSymbols (F : Frame) : List Char := (symbols F).map fun x => hexChar x.toNat

/-- A segment: "`L:<dur>` for `lvl = 0` and `H:<dur>` for `lvl = 1`". -/
def showSegment (g : Segment) : List Char :=
  (match g.lvl with
    | .low => ['L', ':']
    | .high => ['H', ':']) ++ showNat g.dur

/-- A waveform: its segments "in order, separated by spaces". -/
def showWaveform (W : Waveform) : List Char := ((W.map showSegment).intersperse [' ']).flatten

/-- The operands of `ENCODE`: decimal, "all seven operands present, in this order". -/
def showTime (t : TimeBundle) : List Char :=
  "year=".toList ++ showNat t.year.toNat ++ " month=".toList ++ showNat t.month.toNat ++
  " day=".toList ++ showNat t.day.toNat ++ " hour24=".toList ++ showNat t.hour24.toNat ++
  " minute=".toList ++ showNat t.minute.toNat ++ " second=".toList ++ showNat t.second.toNat ++
  " wday=".toList ++ showNat t.wday.toNat

/-- One line of a command sequence; a word that is no command has no form in R89. -/
def showCommand (durW : Nat) (p : PortSample) : Option (List Char) :=
  if p.reset then some "RESET".toList
  else
    match decode durW p.word with
    | .instr .nop => some "NOP".toList
    | .instr .encode => some ("ENCODE ".toList ++ showTime p.time)
    | .instr .synth => some "SYNTH".toList
    | .instr .take => some "TAKE".toList
    | .instr _ => none
    | .rejected _ => none

/-- The two mode names of R81 and R78. -/
def showWdayMode : WdayMode → List Char
  | .sun7 => "SUN7".toList
  | .plus1 => "PLUS1".toList

def showMarkerMode : MarkerMode → List Char
  | .lt20 => "LT20".toList
  | .lt21 => "LT21".toList

/-- An integer in decimal. -/
def showInt : Int → List Char
  | .ofNat n => showNat n
  | .negSucc n => '-' :: showNat (n + 1)

/-- A configuration, between braces (characters 123 and 125). -/
def showConfig (c : Config) : List Char :=
  "cfg".toList ++ [Char.ofNat 123] ++ "T=".toList ++ showNat c.T ++ ", DUR_W=".toList ++ showNat c.durW ++
  ", BASE_YEAR=".toList ++ showInt c.baseYear ++ ", WDAY_MODE=".toList ++ showWdayMode c.wdayMode ++
  ", MARKER_MODE=".toList ++ showMarkerMode c.markerMode ++ [Char.ofNat 125]

end Sys2Proof.Machine
end

