-- ==== Sys2Proof/Tests/Slice0.lean ====
section
/-! SUPPORT. Tests/Slice0.lean: the model's own tests. Expected values are taken from 95_test_vectors.md (rows named in the comments)
or written out by hand from the encodings of 30_encoding.md; then one witness for every obligation that has hypotheses. -/

namespace Sys2Proof.Tests

open Sys2Proof.Machine

/-! ### Bundles and states -/

/-- EX-A, row E1. -/
def exA : TimeBundle := { year := 26, month := 11, day := 10, hour24 := 12, minute := 40, second := 0, wday := 2 }

/-- EX-B, row E4: every field at its maximum. -/
def exB : TimeBundle := { year := 99, month := 12, day := 31, hour24 := 23, minute := 59, second := 59, wday := 4 }

/-- The all-maximal port pattern: every port out of range but those that cannot be. -/
def exBad : TimeBundle := { year := 127, month := 15, day := 0, hour24 := 31, minute := 63, second := 63, wday := 7 }

/-- A configuration in the variant modes, with a `T` that 10 does not divide. -/
def cfgVariant : Config :=
  { T := 15, durW := 4, baseYear := 2000, wdayMode := .plus1, markerMode := .lt21, wf := by decide }

/-- Reset with a bundle on the ports. -/
def withTime (t : TimeBundle) : State := { State.reset with time := t }

/-- Phase FRAMED with EX-A's frame. -/
def framed : State := { withTime exA with frame := some 0x002828AB68#38 }

/-- Phase READY: EX-A's frame and its waveform. -/
def ready : State := { framed with wave := some (synthesize 10 0x002828AB68#38) }

/-- `s` with samples driven by the host. -/
def driven (s : State) (ps : List PortSample) : State := { s with script := ps }

/-- What of a step is looked at, when a next state is answered. -/
def frameAfter (o : Host.Outcome State Fault Refusal) : Option Frame :=
  match o with
  | .next s => s.frame
  | .fault _ => none
  | .refused _ => none

def waveAfter (o : Host.Outcome State Fault Refusal) : Option Waveform :=
  match o with
  | .next s => s.wave
  | .fault _ => none
  | .refused _ => none

def accAfter (o : Host.Outcome State Fault Refusal) : Option Acc :=
  match o with
  | .next s => some s.scratch.acc
  | .fault _ => none
  | .refused _ => none

def segsAfter (o : Host.Outcome State Fault Refusal) : Option Waveform :=
  match o with
  | .next s => some s.scratch.segs
  | .fault _ => none
  | .refused _ => none

def faultOf (o : Host.Outcome State Fault Refusal) : Option Fault :=
  match o with
  | .next _ => none
  | .fault r => some r
  | .refused _ => none

/-- Reset with an accumulator, for one packing row. -/
def withAcc (t : TimeBundle) (w v : Nat) : State :=
  { withTime t with scratch := { acc := { width := w, value := v }, segs := [] } }

/-! ### WellFormed: an ill-formed term for each check (R6, R76) -/

theorem test_config_T_too_small_refused : Config.ofRaw
    { T := 9, durW := 32, baseYear := 0, wdayMode := .sun7, markerMode := .lt20 } = none := by decide

theorem test_config_T_too_wide_refused : Config.ofRaw
    { T := 2 ^ 8, durW := 8, baseYear := 0, wdayMode := .sun7, markerMode := .lt20 } = none := by decide

theorem test_config_durW_too_small_refused : Config.ofRaw
    { T := 10, durW := 3, baseYear := 0, wdayMode := .sun7, markerMode := .lt20 } = none := by decide

theorem test_config_smallest_accepted : (Config.ofRaw
    { T := 10, durW := 4, baseYear := 0, wdayMode := .sun7, markerMode := .lt20 }).isSome = true := by decide

theorem test_segment_duration_too_wide : (Instr.segment .low 256).wf 8 = false := by decide

theorem test_segment_duration_fits : (Instr.segment .low 255).wf 8 = true := by decide

/-! ### Decoding: words written out from the encodings of 30_encoding.md -/

theorem test_decode_nop : decode 32 ⟨.cmd, 0b00⟩ = .instr .nop := by decide
theorem test_decode_encode : decode 32 ⟨.cmd, 0b01⟩ = .instr .encode := by decide
theorem test_decode_synth : decode 32 ⟨.cmd, 0b10⟩ = .instr .synth := by decide
theorem test_decode_take : decode 32 ⟨.cmd, 0b11⟩ = .instr .take := by decide
theorem test_decode_cmd_too_wide : decode 32 ⟨.cmd, 0b100⟩ = .rejected .tooWide := by decide
theorem test_decode_sym0 : decode 32 ⟨.symbol, 0b00⟩ = .instr .sym0 := by decide
theorem test_decode_sym1 : decode 32 ⟨.symbol, 0b01⟩ = .instr .sym1 := by decide
theorem test_decode_sym2 : decode 32 ⟨.symbol, 0b10⟩ = .instr .sym2 := by decide
theorem test_decode_sym3 : decode 32 ⟨.symbol, 0b11⟩ = .instr .sym3 := by decide

/-- The fields of EX-A by hand: `00 00 0000 101000 0010 1 0 001010 1011 011010 0 0`. -/
def exAFields : FrameRest :=
  { hour := 0, min := 40, wday := 2, pm := 1, par1 := 0, day := 10, mon := 11, ylow := 26, yhi := 0, par2 := 0 }

/-- The fields of EX-B by hand: `10 00 1011 111011 0100 1 1 011111 1100 100011 1 1`. -/
def exBFields : FrameRest :=
  { hour := 11, min := 59, wday := 4, pm := 1, par1 := 1, day := 31, mon := 12, ylow := 35, yhi := 1, par2 := 1 }

theorem test_decode_frame : decode 32 ⟨.frame, 0b10001011111011010011011111110010001111⟩ =
    .instr (.frame 0b10#2 exBFields) := by decide

theorem test_decode_marker0 : decode 32 ⟨.marker, 0b00000000101000001010001010101101101000⟩ =
    .instr (.marker0 exAFields) := by decide

theorem test_decode_marker1 : decode 32 ⟨.marker, 0b01000000101000001010001010101101101000⟩ =
    .instr (.marker1 exAFields) := by decide

theorem test_decode_marker2 : decode 32 ⟨.marker, 0b10001011111011010011011111110010001111⟩ =
    .instr (.marker2 exBFields) := by decide

theorem test_decode_marker3_rejected : decode 32 ⟨.marker, 0x3000000000⟩ = .rejected .markerThree := by decide

theorem test_decode_reserved_rejected : decode 32 ⟨.frame, 0x0400000000⟩ = .rejected .reservedSet := by decide

/-- A segment for the default `DUR_W`: level bit 1 above duration 1000000. -/
theorem test_decode_segment : decode 32 ⟨.segment, 0b100000000000011110100001001000000⟩ =
    .instr (.segment .high 1000000) := by decide

theorem test_decode_segment_low : decode 8 ⟨.segment, 0b000000011⟩ = .instr (.segment .low 3) := by decide

/-- The places of the twelve fields (R71), each a run of ones. -/
theorem test_decode_steps_first_half :
    decode 32 ⟨.field, 0b11 * 2 ^ 36⟩ = .instr .stepMarker ∧ decode 32 ⟨.field, 0b11 * 2 ^ 34⟩ = .instr .stepRsv ∧
    decode 32 ⟨.field, 0b1111 * 2 ^ 30⟩ = .instr .stepHour ∧ decode 32 ⟨.field, 0b111111 * 2 ^ 24⟩ = .instr .stepMin ∧
    decode 32 ⟨.field, 0b1111 * 2 ^ 20⟩ = .instr .stepWday ∧ decode 32 ⟨.field, 2 ^ 19⟩ = .instr .stepPm ∧
    decode 32 ⟨.field, 2 ^ 18⟩ = .instr .stepPar1 := by decide

theorem test_decode_steps_second_half :
    decode 32 ⟨.field, 0b111111 * 2 ^ 12⟩ = .instr .stepDay ∧ decode 32 ⟨.field, 0b1111 * 2 ^ 8⟩ = .instr .stepMon ∧
    decode 32 ⟨.field, 0b111111 * 2 ^ 2⟩ = .instr .stepYlow ∧ decode 32 ⟨.field, 2 ^ 1⟩ = .instr .stepYhi ∧
    decode 32 ⟨.field, 2 ^ 0⟩ = .instr .stepPar2 ∧ decode 32 ⟨.field, 3⟩ = .rejected .noSuchField := by decide

theorem test_decodeTableWord_commands :
    decodeTableWord 8 0 = some .nop ∧ decodeTableWord 8 1 = some .encode ∧ decodeTableWord 8 2 = some .synth ∧
      decodeTableWord 8 3 = some .take := by decide

/-! ### ENCODE: rows of table 2.1 -/

theorem test_encode_E1 : frameAfter (exec .encode (withTime exA)) = some 0x002828AB68#38 := by decide
theorem test_encode_E4 : frameAfter (exec .encode (withTime exB)) = some 0x22FB4DFC8F#38 := by decide

/-- E9: the last am hour, year 64, second 20. -/
theorem test_encodeFrame_E9 : encodeFrame Config.default
    { year := 64, month := 2, day := 29, hour24 := 11, minute := 59, second := 20, wday := 5 } = 0x12FB55D202#38 := by decide

/-- E11: a Sunday under PLUS1. -/
theorem test_encodeFrame_E11 : encodeFrame { Config.default with wdayMode := .plus1 }
    { year := 27, month := 6, day := 6, hour24 := 7, minute := 5, second := 40, wday := 0 } = 0x21C514666C#38 := by decide

/-- E10: the same Sunday under SUN7. -/
theorem test_encodeFrame_E10 : encodeFrame Config.default
    { year := 27, month := 6, day := 6, hour24 := 7, minute := 5, second := 40, wday := 0 } = 0x21C574666C#38 := by decide

/-- E14, E15, E16, E17: the LT21 boundary. -/
theorem test_encodeFrame_LT21 :
    encodeFrame { Config.default with markerMode := .lt21 } { exA with second := 20 } = 0x002828AB68#38 ∧
    encodeFrame { Config.default with markerMode := .lt21 } { exA with second := 21 } = 0x10282CAB68#38 ∧
    encodeFrame { Config.default with markerMode := .lt21 } { exA with second := 40 } = 0x10282CAB68#38 ∧
    encodeFrame { Config.default with markerMode := .lt21 } { exA with second := 41 } = 0x20282CAB68#38 := by decide

/-- Table 2.7. -/
theorem test_encode_month13_before_second60 :
    faultOf (exec .encode (withTime { exA with month := 13, second := 60 })) = some (.timeRange .month 13) := by decide

theorem test_invalid_bundles :
    firstBadField { exA with year := 100 } = some .year ∧ firstBadField { exA with month := 0 } = some .month ∧
    firstBadField { exA with day := 0 } = some .day ∧ firstBadField { exA with hour24 := 24 } = some .hour24 ∧
    firstBadField { exA with minute := 60 } = some .minute ∧ firstBadField { exA with wday := 7 } = some .wday ∧
    firstBadField { exA with day := 31, month := 2 } = none := by decide

/-- The codes of R191. -/
theorem test_fault_codes : faultCode (.timeRange .day 0) = 1 ∧ faultCode .noFrame = 2 ∧ faultCode .noWave = 3 := by decide

/-- Table 2.6. -/
theorem test_xorfold_table :
    xorfold 4 0b1011 = 1 ∧ xorfold 19 0x505 = 0 ∧ xorfold 19 0x45F69 = 1 ∧ xorfold 17 0x55B4 = 0 ∧
      xorfold 17 0xFE47 = 1 ∧ xorfold 38 0x3FFFFFFFFF = 0 ∧ xorfold 37 0x1FFFFFFFFF = 1 := by decide

/-- The reduction of R9 on its worked values. -/
theorem test_foldReduction : foldReduction 0b1011 = 1 ∧ foldReduction 0b1001 = 0 ∧ foldReduction 0x1FFFFFFFFF = 1 := by
  decide

/-! ### The packing rows: table 2.2, EX-B -/

theorem test_stepMarker : accAfter (exec .stepMarker (withAcc exB 0 0)) = some ⟨2, 0x2⟩ := by decide
theorem test_stepRsv : accAfter (exec .stepRsv (withAcc exB 2 0x2)) = some ⟨4, 0x8⟩ := by decide
theorem test_stepHour : accAfter (exec .stepHour (withAcc exB 4 0x8)) = some ⟨8, 0x8B⟩ := by decide
theorem test_stepMin : accAfter (exec .stepMin (withAcc exB 8 0x8B)) = some ⟨14, 0x22FB⟩ := by decide
theorem test_stepWday : accAfter (exec .stepWday (withAcc exB 14 0x22FB)) = some ⟨18, 0x22FB4⟩ := by decide
theorem test_stepPm : accAfter (exec .stepPm (withAcc exB 18 0x22FB4)) = some ⟨19, 0x45F69⟩ := by decide
theorem test_stepPar1 : accAfter (exec .stepPar1 (withAcc exB 19 0x45F69)) = some ⟨20, 0x8BED3⟩ := by decide
theorem test_stepDay : accAfter (exec .stepDay (withAcc exB 20 0x8BED3)) = some ⟨26, 0x22FB4DF⟩ := by decide
theorem test_stepMon : accAfter (exec .stepMon (withAcc exB 26 0x22FB4DF)) = some ⟨30, 0x22FB4DFC⟩ := by decide
theorem test_stepYlow : accAfter (exec .stepYlow (withAcc exB 30 0x22FB4DFC)) = some ⟨36, 0x8BED37F23⟩ := by decide
theorem test_stepYhi : accAfter (exec .stepYhi (withAcc exB 36 0x8BED37F23)) = some ⟨37, 0x117DA6FE47⟩ := by decide
theorem test_stepPar2 : accAfter (exec .stepPar2 (withAcc exB 37 0x117DA6FE47)) = some ⟨38, 0x22FB4DFC8F⟩ := by decide

/-- EX-A's first parity bit is 0. -/
theorem test_stepPar1_even : accAfter (exec .stepPar1 (withAcc exA 19 0x505)) = some ⟨20, 0x00A0A⟩ := by decide

theorem test_stepHour_out_of_range :
    faultOf (exec .stepHour (withAcc { exA with hour24 := 24 } 4 0)) = some (.timeRange .hour24 24) := by decide

/-! ### SYNTH and the symbol values: tables 3.1 and 3.2 -/

/-- W1's first two, ninth and last segments. -/
theorem test_synth_W1 : (waveAfter (exec .synth framed)).map (fun W => [W[0]?, W[1]?, W[8]?, W[28]?, W[38]?, W[39]?]) =
    some [some ⟨.low, 1⟩, some ⟨.high, 9⟩, some ⟨.low, 3⟩, some ⟨.low, 4⟩, some ⟨.high, 10⟩, none] := by decide

theorem test_synth_without_frame : faultOf (exec .synth State.reset) = some .noFrame := by decide

theorem test_sym0 : segsAfter (exec .sym0 State.reset) = some [⟨.low, 1⟩, ⟨.high, 9⟩] := by decide

/-- `T = 15`: `low(1) = 3` is not `2 * low(0)`. -/
theorem test_sym1 : segsAfter (exec .sym1 { State.reset with cfg := cfgVariant }) = some [⟨.low, 3⟩, ⟨.high, 12⟩] := by
  decide

theorem test_sym2 : segsAfter (exec .sym2 { State.reset with cfg := cfgVariant }) = some [⟨.low, 4⟩, ⟨.high, 11⟩] := by
  decide

theorem test_sym3 : segsAfter (exec .sym3 State.reset) = some [⟨.low, 4⟩, ⟨.high, 6⟩] := by decide

/-- Table 3.1, `T = 32768`. -/
theorem test_pulsePair_32768 : pulsePair 32768 0 = [⟨.low, 3276⟩, ⟨.high, 29492⟩] ∧
    pulsePair 32768 3 = [⟨.low, 13107⟩, ⟨.high, 19661⟩] := by decide

/-- The symbols of EX-A, `0000220022022231220`. -/
theorem test_symbols_E1 : (symbols 0x002828AB68#38).map BitVec.toNat =
    [0, 0, 0, 0, 2, 2, 0, 0, 2, 2, 0, 2, 2, 2, 3, 1, 2, 2, 0] := by decide

/-- Table 3.3. -/
theorem test_level_W1 : [0, 1, 9, 10, 42, 43, 143, 144, 151, 152, 189, 190, 199, 200].map
    (level (synthesize 10 0x002828AB68#38)) =
    [some .low, some .high, some .high, some .low, some .low, some .high, some .low, some .high, some .low, some .high,
      some .high, some .high, some .high, none] := by decide

/-! ### Hand-off: part 4 -/

theorem test_nop : frameAfter (exec .nop ready) = some 0x002828AB68#38 := by decide

theorem test_take_clears : (match exec .take ready with
    | .next s => (frameValid s, waveValid s, s.delivered.map List.length) == (false, false, [39])
    | .fault _ => false
    | .refused _ => false) = true := by decide

theorem test_take_without_wave : faultOf (exec .take framed) = some .noWave := by decide

theorem test_read_functions_framed :
    readFrame framed = some 0x002828AB68#38 ∧ readSym framed 4 = some 2#2 ∧ readSym framed 18 = some 0#2 ∧
      readSym framed 19 = none ∧ readSeg framed 0 = none := by decide

theorem test_read_functions_ready :
    readSeg ready 8 = some ⟨.low, 3⟩ ∧ readSeg ready 38 = some ⟨.high, 10⟩ ∧ readSeg ready 39 = none := by decide

/-! ### The format rows -/

theorem test_frame_row : accAfter (exec (.frame 0b10#2 exBFields) State.reset) = some ⟨38, 0x22FB4DFC8F⟩ := by decide
theorem test_marker0_row : accAfter (exec (.marker0 exAFields) State.reset) = some ⟨38, 0x002828AB68⟩ := by decide
theorem test_marker1_row : accAfter (exec (.marker1 exAFields) State.reset) = some ⟨38, 0x102828AB68⟩ := by decide
theorem test_marker2_row : accAfter (exec (.marker2 exBFields) State.reset) = some ⟨38, 0x22FB4DFC8F⟩ := by decide
theorem test_segment_row : segsAfter (exec (.segment .high 10) State.reset) = some [⟨.high, 10⟩] := by decide

/-! ### The step -/

/-- P1 step 2: the driven command runs on the driven bundle. -/
theorem test_step_encode : frameAfter (step (driven State.reset [command 0b01#2 exA])) = some 0x002828AB68#38 := by decide

/-- Part 4, last row: reset wins over the command it coincides with, in a faulted state. -/
theorem test_step_reset_wins : (match step (driven (markFaulted ready) [resetSample (Word.ofCmd 0b11#2) exA]) with
    | .next s => (frameValid s, waveValid s, s.faulted, s.delivered) == (false, false, false, [])
    | .fault _ => false
    | .refused _ => false) = true := by decide

/-- P3, run b. -/
theorem test_step_fault_marks :
    (afterStep (driven State.reset [command 0b01#2 { exA with month := 13 }])).faulted = true := by decide

theorem test_step_idle : frameAfter (step framed) = some 0x002828AB68#38 := by decide

/-! ### The notation of R89 -/

theorem test_show_frame : showFrame 0x002828AB68#38 = ['0', 'x', '0', '0', '2', '8', '2', '8', 'A', 'B', '6', '8'] := by decide

theorem test_show_segment : showSegment ⟨.high, 10⟩ = ['H', ':', '1', '0'] := by decide

/-! ### Witnesses: for every obligation with hypotheses, a state and operands that meet them all -/

theorem witness_DecodeOfEncodeIsTheInstruction :
    (Instr.segment .high 255).wf 8 = true ∧ (Instr.frame 3#2 exBFields).wf 8 = true := by decide

theorem witness_EncodeOfDecodeIsTheWord : decode 8 ⟨.segment, 0x1FF⟩ = .instr (.segment .high 255) := by decide

theorem witness_ReservedFrameWordsAreRejected :
    (0x0C00000000#38).extractLsb' 34 2 ≠ 0#2 ∧ (0x3000000000#38).extractLsb' 34 2 = 0#2 ∧
      (0x3000000000#38).extractLsb' 36 2 = 3#2 := by decide

theorem witness_StepRunsTheDecodedInstruction :
    (driven framed [command 0b10#2 exA]).script = command 0b10#2 exA :: [] ∧ (command 0b10#2 exA).reset = false ∧
      (driven framed [command 0b10#2 exA]).faulted = false ∧
      decode framed.cfg.durW (command 0b10#2 exA).word = .instr .synth := by decide

theorem witness_StepWithNothingDrivenIsNop : framed.script = [] ∧ framed.faulted = false := by decide

theorem witness_PlacedWordRunsNext :
    ready.faulted = false ∧ decode ready.cfg.durW (tableWord 8 3) = .instr .take := by decide

theorem witness_CommandStepIsNeverRefused :
    (driven ready [command 0b11#2 exB]).script = command 0b11#2 exB :: [] ∧
      (driven ready [command 0b11#2 exB]).faulted = false := by decide

theorem witness_ResetEventEmptiesAnyState :
    (driven (markFaulted ready) [resetSample (Word.ofCmd 0b01#2) exBad]).script =
      resetSample (Word.ofCmd 0b01#2) exBad :: [] := by decide

theorem witness_FaultedMarkStopsAllButReset :
    faultOf (step (driven State.reset [command 0b11#2 exA])) = some .noWave ∧
    ((markFaulted ready).faulted = true ∧ (nextSample (markFaulted ready)).reset = false) ∧
    ((driven (markFaulted ready) [resetSample (Word.ofCmd 0b00#2) exA]).faulted = true ∧
      (nextSample (driven (markFaulted ready) [resetSample (Word.ofCmd 0b00#2) exA])).reset = true) := by decide

theorem witness_FaultingStepWritesNothing :
    faultOf (step (driven ready [command 0b01#2 exBad])) = some (.timeRange .year 127) := by decide

theorem witness_UndecodableWordIsRefusedAndExecutesNothing :
    (driven ready [{ reset := false, word := ⟨.cmd, 4⟩, time := exA }]).script =
      { reset := false, word := ⟨.cmd, 4⟩, time := exA } :: [] ∧
    (driven ready [{ reset := false, word := ⟨.cmd, 4⟩, time := exA }]).faulted = false ∧
    decode ready.cfg.durW ⟨.cmd, 4⟩ = .rejected .tooWide := by decide

/-- Both grounds: an undecodable word, and a command in a faulted state. -/
theorem witness_RefusedStepExecutesNothing :
    step (driven ready [{ reset := false, word := ⟨.marker, 0x3000000000⟩, time := exA }]) =
      .refused (.undecodable .markerThree) ∧
    step (driven (markFaulted ready) [command 0b00#2 exA]) = .refused .noStepWhileFaulted := ⟨rfl, rfl⟩

theorem witness_EncodeWritesTheClosedForm :
    validTime (withTime exB).time = true ∧ validTime (withTime { exA with month := 1, day := 1 }).time = true := by decide

/-- Every port at its maximum, where the bounds of R122 are closest. -/
theorem witness_EncoderNeverOverflows : validTime (withTime exB).time = true ∧ 12 ≤ 12 ∧ 11 < 12 := by decide

/-- `V6`, `V11` and `V12` of EX-B, table 2.2. -/
theorem test_accAfterSteps : accAfterSteps Config.default exB 6 = ⟨19, 0x45F69⟩ ∧
    accAfterSteps Config.default exB 11 = ⟨37, 0x117DA6FE47⟩ ∧
    accAfterSteps Config.default exB 12 = ⟨38, 0x22FB4DFC8F⟩ := by decide

theorem witness_EncodedFrameHoldsEachField : validTime (withTime { exB with hour24 := 12, wday := 0 }).time = true := by decide

theorem witness_EncodeOfInvalidTimeFaults :
    (driven ready [command 0b01#2 { exB with second := 60 }]).script = command 0b01#2 { exB with second := 60 } :: [] ∧
      (driven ready [command 0b01#2 { exB with second := 60 }]).faulted = false ∧
      validTime { exB with second := 60 } = false := by decide

theorem witness_EncodedFrameMeetsTheConstraints : validTime (withTime exB).time = true := by decide

theorem witness_PrefixAndSecondHalfParityAgree : 2 ^ 17 - 1 < 2 ^ 17 ∧ xorfold 20 0x8BED3 = 0 := by decide

theorem witness_XorfoldIsTheShiftReduction : 64 ≤ 64 ∧ 2 ^ 64 - 1 < 2 ^ 64 := by decide

theorem witness_FrameDependsOnTimeAndModesOnly :
    ready.time = (withTime exA).time ∧ ready.cfg.wdayMode = (withTime exA).cfg.wdayMode ∧
      ready.cfg.markerMode = (withTime exA).cfg.markerMode ∧ validTime ready.time = true := by decide

theorem witness_FrameDeterminesTheTimePorts :
    validTime exA = true ∧ validTime { exA with second := 19 } = true ∧
      encodeFrame Config.default exA = encodeFrame Config.default { exA with second := 19 } := by decide

theorem witness_EncodedFrameIsAWordOfItsMarkerRow :
    validTime { exA with second := 20 } = true ∧ validTime { exA with second := 40 } = true := by decide

theorem witness_MarkersOfTheScheduledSeconds :
    validTime { exA with second := 40 } = true ∧ scheduledSecond 40 = true ∧ scheduledSecond 20 = true ∧
      scheduledSecond 0 = true := by decide

theorem witness_PackingRowsAppendTheirField :
    (withAcc exB 4 8).scratch.acc = { width := 4, value := 8 } ∧ (withAcc exB 4 8).time.second.toNat ≤ 59 ∧
      (withAcc exB 4 8).time.hour24.toNat ≤ 23 ∧ (withAcc exB 4 8).time.minute.toNat ≤ 59 ∧
      (withAcc exB 4 8).time.wday.toNat ≤ 6 ∧ 1 ≤ (withAcc exB 4 8).time.day.toNat ∧
      1 ≤ (withAcc exB 4 8).time.month.toNat ∧ (withAcc exB 4 8).time.month.toNat ≤ 12 ∧
      (withAcc exB 4 8).time.year.toNat ≤ 99 := by decide

theorem witness_ReservedAndParityRowsAppend : (withAcc exB 19 0x45F69).scratch.acc = { width := 19, value := 0x45F69 } := by
  decide

theorem witness_PackingRowOutOfRangeFaults :
    59 < (withTime exBad).time.second.toNat ∧ 23 < (withTime exBad).time.hour24.toNat ∧
      59 < (withTime exBad).time.minute.toNat ∧ 6 < (withTime exBad).time.wday.toNat ∧
      (withTime exBad).time.day.toNat = 0 ∧ 12 < (withTime exBad).time.month.toNat ∧
      99 < (withTime exBad).time.year.toNat := by decide

theorem witness_TwelvePackingRowsBuildTheFrame :
    validTime (withTime exB).time = true ∧ (withTime exB).scratch.acc = Acc.empty := by decide

theorem witness_SynthWritesTheWaveform : framed.frame = some 0x002828AB68#38 ∧ 18 ≤ 18 := by decide

theorem witness_CommandsWithoutTheirRegisterFault :
    (driven State.reset [command 0b10#2 exA]).faulted = false ∧
    ((driven State.reset [command 0b10#2 exA]).script = command 0b10#2 exA :: [] ∧
      frameValid (driven State.reset [command 0b10#2 exA]) = false) ∧
    (driven framed [command 0b11#2 exA]).faulted = false ∧
    ((driven framed [command 0b11#2 exA]).script = command 0b11#2 exA :: [] ∧
      waveValid (driven framed [command 0b11#2 exA]) = false) := by decide

theorem witness_SymbolRowsAddTheirPulsePair : ready.scratch.segs = [] := by decide

theorem witness_PulsePairSumsToOneSecond : (0#2).toNat < (3#2).toNat := by decide

theorem witness_EpochLastsTwentySeconds : framed.frame = some 0x002828AB68#38 ∧ 19 ≤ 19 := by decide

theorem witness_LevelHasItsClosedForm : 199 < 20 * Config.default.T ∧ 20 * Config.default.T ≤ 200 := by decide

theorem witness_TenthsAreExactWhenTenDividesT : 10 ∣ Config.default.T := by decide

theorem witness_WaveformDeterminesTheFrame :
    synthesize Config.default.T 0x002828AB68#38 = synthesize Config.default.T 0x002828AB68#38 := rfl

theorem witness_DurationsFitTheirRegister :
    exec .synth framed = .next { framed with wave := some (synthesize 10 0x002828AB68#38) } := rfl

theorem witness_SymbolRowsBuildTheWaveform : framed.frame = some 0x002828AB68#38 ∧ framed.scratch.segs = [] := by decide

theorem witness_TakeHandsOverTheWaveform : ready.wave = some (synthesize 10 0x002828AB68#38) := rfl

theorem witness_RepeatedCommandsAreIdempotentButTake :
    exec .encode framed = .next framed ∧ exec .synth ready = .next ready ∧
      exec .take ready = .next (handOver (synthesize 10 0x002828AB68#38) ready) := ⟨rfl, rfl, rfl⟩

/-- Its last clause: an `ENCODE` and a symbol row between the two `TAKE`s. -/
theorem witness_RepeatedCommandsAreIdempotentButTake_between :
    Instr.synth ∉ [Instr.encode, .sym0] ∧
      execAll [.encode, .sym0] (handOver (synthesize 10 0x002828AB68#38) ready) =
        .next (addSegments (pulsePair 10 0)
          (writeFrame (encodeFrame Config.default exA) (handOver (synthesize 10 0x002828AB68#38) ready))) :=
  ⟨by decide, rfl⟩

theorem witness_ArmingLeavesTheFrameAndItsWaveform :
    (driven ready (arming exB 2 ++ [command 0b11#2 exB])).faulted = false ∧ validTime exB = true ∧
      (driven ready (arming exB 2 ++ [command 0b11#2 exB])).script = arming exB 2 ++ [command 0b11#2 exB] := by decide

theorem witness_PhaseSaysWhichCommandsComplete :
    phase ready = some .ready ∧ phase framed = some .framed ∧ phase (withTime exA) = some .empty ∧
      isCommand .take = true ∧ validTime ready.time = true := by decide

theorem witness_FlagsFollowTheirTable :
    (nextSample (driven ready [resetSample (Word.ofCmd 0b00#2) exA])).reset = true ∧
    ((nextSample (driven ready [command 0b11#2 exA])).reset = false ∧
      decode ready.cfg.durW (nextSample (driven ready [command 0b11#2 exA])).word = .instr .take ∧
      faultOf (step (driven ready [command 0b11#2 exA])) = none) ∧
    faultOf (step (driven framed [command 0b11#2 exA])) = some .noWave := by decide

theorem witness_EachRegisterHasItsOwnWriters : exec .sym0 ready = .next (addSegments (pulsePair 10 0) ready) := rfl

theorem witness_FormatRowsWriteOnlyTheScratch :
    isCommand .stepMin = false ∧ exec .stepMin ready = .next (setAcc { width := 6, value := 40 } ready) := ⟨rfl, rfl⟩

theorem witness_CommandsDoNotSeeTheScratch : isCommand .take = true := by decide

theorem witness_FrameRowsLayOutTheirFields : 0x02FB4DFC8F =
    exBFields.hour.toNat * 2 ^ 30 + exBFields.min.toNat * 2 ^ 24 + exBFields.wday.toNat * 2 ^ 20 +
      exBFields.pm.toNat * 2 ^ 19 + exBFields.par1.toNat * 2 ^ 18 + exBFields.day.toNat * 2 ^ 12 +
      exBFields.mon.toNat * 2 ^ 8 + exBFields.ylow.toNat * 2 ^ 2 + exBFields.yhi.toNat * 2 + exBFields.par2.toNat := by decide

theorem witness_ReadFunctionsReadTheRegisters :
    framed.frame = some 0x002828AB68#38 ∧ State.reset.frame = none ∧ State.reset.wave = none ∧
      (synthesize 10 0x002828AB68#38).length = 39 ∧ (38#6).toNat ≤ 38 ∧ 38 < (39#6).toNat := by decide

theorem witness_StepKeepsTheInvariant :
    Inv (driven State.reset [command 0b01#2 exA]) ∧
    step (driven State.reset [command 0b01#2 exA]) =
      .next (writeFrame (encodeFrame Config.default exA) (withTime exA)) := by
  refine ⟨⟨by decide, fun F h => ?_, fun W h => ?_, fun W h => ?_, by decide, fun g h => ?_⟩, rfl⟩
  · cases h
  · cases h
  · cases h
  · cases h

end Sys2Proof.Tests
end

/-! ## O22: the parity fold and its shift-and-xor reduction (R9) -/
namespace Sys2Proof.Machine

/-- The fold splits at every bit position: the bits from `n` up, and the low `n` bits. -/
theorem xorfold_add (m n v : Nat) : xorfold (m + n) v = (xorfold m (v / 2 ^ n) + xorfold n (v % 2 ^ n)) % 2 := by
  rw [← xorfold_append m n _ _ (Nat.mod_lt v (Nat.two_pow_pos n)), Nat.div_add_mod']

/-- The fold of width `n` reads only the low `n` bits. -/
theorem xorfold_mod_two_pow (n v : Nat) : xorfold n (v % 2 ^ n) = xorfold n v := by
  have h := xorfold_add 0 n v
  have hlt := xorfold_lt_two n (v % 2 ^ n)
  have hzero : xorfold 0 (v / 2 ^ n) = 0 := rfl
  rw [Nat.zero_add] at h
  omega

/-- Leading zeros add no 1 bits. -/
theorem xorfold_of_le {w w' v : Nat} (hv : v < 2 ^ w) (hw : w ≤ w') : xorfold w' v = xorfold w v := by
  obtain ⟨k, rfl⟩ := Nat.exists_eq_add_of_le' hw
  have hzero : xorfold k 0 = 0 := by rw [xorfold, onesCount_zero]
  rw [xorfold_add, Nat.div_eq_of_lt hv, Nat.mod_eq_of_lt hv, hzero, Nat.zero_add,
    Nat.mod_eq_of_lt (xorfold_lt_two w v)]

/-- The exclusive-or of two values adds their folds modulo 2: bits that are 1 in both drop out in pairs. -/
theorem xorfold_xor (n a b : Nat) : xorfold n (a ^^^ b) = (xorfold n a + xorfold n b) % 2 := by
  induction n generalizing a b with
  | zero => rfl
  | succ n ih =>
    have hlow : (a ^^^ b) % 2 = (a + b) % 2 := Nat.xor_mod_two_eq
    have hrest := ih (a / 2) (b / 2)
    rw [← Nat.xor_div_two] at hrest
    simp only [xorfold, onesCount] at hrest ⊢
    omega

/-- One step of the reduction: folding the upper `n` bits onto the lower `n` halves the width and keeps the fold. -/
theorem xorfold_xor_shiftRight (n v : Nat) : xorfold (n + n) v = xorfold n (v ^^^ (v >>> n)) := by
  rw [xorfold_add, xorfold_mod_two_pow, xorfold_xor, Nat.shiftRight_eq_div_pow, Nat.add_comm]

theorem xorfold_one (v : Nat) : xorfold 1 v = v % 2 := Nat.mod_mod v 2

/-- The six steps of the reduction take the fold from width 64 to width 1, where it is the low bit. -/
theorem foldReduction_eq_xorfold (v : Nat) : foldReduction v = xorfold 64 v := by
  rw [foldReduction, ← xorfold_mod_two_pow 64 v]
  simp only [← xorfold_one]
  rw [← xorfold_xor_shiftRight 1, ← xorfold_xor_shiftRight 2, ← xorfold_xor_shiftRight 4,
    ← xorfold_xor_shiftRight 8, ← xorfold_xor_shiftRight 16, ← xorfold_xor_shiftRight 32]

/-- Settles O22: the reduction is the fold of width 64, and a narrower value has the same fold there. -/
theorem xorfoldIsTheShiftReduction : Obligations.XorfoldIsTheShiftReduction := by
  unfold Obligations.XorfoldIsTheShiftReduction
  intro w v hw hv
  constructor
  · rw [foldReduction_eq_xorfold, xorfold_of_le hv hw]
  · intro w' hw'
    exact xorfold_of_le hv hw'

end Sys2Proof.Machine

/-! ## The frame `ENCODE` writes (R71, R86, R122) -/
namespace Sys2Proof.Machine

/-- On a valid bundle every packing step appends a value within its bound (R122). -/
theorem appendsFit_of_validTime (c : Config) {t : TimeBundle} (h : validTime t = true) : AppendsFit c t := by
  obtain ⟨hyear, ⟨-, hmonth⟩, ⟨-, hday⟩, -, hminute, -, hwday⟩ := (validTime_iff t).1 h
  exact {
    marker := markerField_le _ _
    rsv := by decide
    hour := hourField_le _
    min := hminute
    wday := wdayField_le _ hwday
    pm := pmField_le _
    par1 := Nat.le_of_lt_succ (xorfold_lt_two _ _)
    day := hday
    mon := hmonth
    ylow := Nat.le_of_lt_succ (ylowField_lt _)
    yhi := by simp only [yhiField]; omega
    par2 := Nat.le_of_lt_succ (xorfold_lt_two _ _) }

/-- `V6` of R100 as a sum of its six fields. -/
theorem accAfterSteps_six_value (c : Config) (t : TimeBundle) :
    (accAfterSteps c t 6).value = markerField c.markerMode t.second.toNat * 2 ^ 17 + rsvField * 2 ^ 15 +
      hourField t.hour24.toNat * 2 ^ 11 + t.minute.toNat * 2 ^ 5 + wdayField c.wdayMode t.wday.toNat * 2 +
      pmField t.hour24.toNat := by
  have hsteps : accAfterSteps c t 6 =
    packPm t (packWday c t (packMin t (packHour t (packRsv (packMarker c t Acc.empty))))) := rfl
  simp only [hsteps, packPm, packWday, packMin, packHour, packRsv, packMarker, append_value, Acc.empty]
  ring

/-- `V12` of R100: `V6`, its parity bit, the four fields of the second half and the parity bit of `V11`. -/
theorem encodeAcc_value (c : Config) (t : TimeBundle) :
    (encodeAcc c t).value = (accAfterSteps c t 6).value * 2 ^ 19 +
      xorfold (accAfterSteps c t 6).width (accAfterSteps c t 6).value * 2 ^ 18 + t.day.toNat * 2 ^ 12 +
      t.month.toNat * 2 ^ 8 + ylowField t.year.toNat * 2 ^ 2 + yhiField t.year.toNat * 2 +
      xorfold (accAfterSteps c t 11).width (accAfterSteps c t 11).value := by
  have hlast : encodeAcc c t = packParity (accAfterSteps c t 11) := rfl
  have hhalf : accAfterSteps c t 11 =
    packYhi t (packYlow t (packMon t (packDay t (packParity (accAfterSteps c t 6))))) := rfl
  have hvalue : (accAfterSteps c t 11).value =
      ((((accAfterSteps c t 6).value * 2 + xorfold (accAfterSteps c t 6).width (accAfterSteps c t 6).value) * 2 ^ 6 +
        t.day.toNat) * 2 ^ 4 + t.month.toNat) * 2 ^ 7 + ylowField t.year.toNat * 2 + yhiField t.year.toNat := by
    simp only [hhalf, packYhi, packYlow, packMon, packDay, packParity, append_value]
    ring
  rw [hlast, packParity, append_value]
  omega

/-- A slice of the written frame is that slice of `V12`: the register keeps the low 38 bits. -/
theorem encodeFrame_extractLsb' (c : Config) (t : TimeBundle) {i n : Nat} (h : i + n ≤ 38) :
    ((encodeFrame c t).extractLsb' i n).toNat = (encodeAcc c t).value / 2 ^ i % 2 ^ n := by
  obtain ⟨k, hk⟩ := Nat.exists_eq_add_of_le h
  rw [BitVec.extractLsb'_toNat, Nat.shiftRight_eq_div_pow, encodeFrame, BitVec.toNat_ofNat, hk, Nat.add_assoc,
    Nat.pow_add, Nat.mod_mul_right_div_self, Nat.pow_add, Nat.mod_mul_right_mod]

/-- A parity step leaves an accumulator that folds to 0 (R85). -/
theorem xorfold_packParity (V : Acc) : xorfold (packParity V).width (packParity V).value = 0 := by
  have hbit := xorfold_lt_two V.width V.value
  rw [packParity, append_width, append_value, xorfold_append _ _ _ _ hbit, xorfold_bit hbit]
  omega

/-- What the slices of R71 hold in the written frame, the parity bits apart: each appended value, uncut (R122). -/
theorem encodeFrame_fields {c : Config} {t : TimeBundle} (h : AppendsFit c t) :
    ((encodeFrame c t).extractLsb' 36 2).toNat = markerField c.markerMode t.second.toNat ∧
    ((encodeFrame c t).extractLsb' 34 2).toNat = rsvField ∧
    ((encodeFrame c t).extractLsb' 30 4).toNat = hourField t.hour24.toNat ∧
    ((encodeFrame c t).extractLsb' 24 6).toNat = t.minute.toNat ∧
    ((encodeFrame c t).extractLsb' 20 4).toNat = wdayField c.wdayMode t.wday.toNat ∧
    ((encodeFrame c t).extractLsb' 19 1).toNat = pmField t.hour24.toNat ∧
    ((encodeFrame c t).extractLsb' 12 6).toNat = t.day.toNat ∧
    ((encodeFrame c t).extractLsb' 8 4).toNat = t.month.toNat ∧
    ((encodeFrame c t).extractLsb' 2 6).toNat = ylowField t.year.toNat ∧
    ((encodeFrame c t).extractLsb' 1 1).toNat = yhiField t.year.toNat := by
  obtain ⟨hmarker, hrsv, hhour, hmin, hwday, hpm, hpar1, hday, hmon, hylow, hyhi, hpar2⟩ := h
  have hvalue := encodeAcc_value c t
  have hsix := accAfterSteps_six_value c t
  refine ⟨?_, ?_, ?_, ?_, ?_, ?_, ?_, ?_, ?_, ?_⟩ <;>
    rw [encodeFrame_extractLsb' _ _ (by decide)] <;> omega

/-- Above its low 18 bits `V12` is `V7` (R122: no spill). -/
theorem encodeAcc_div_eq_firstHalf {c : Config} {t : TimeBundle} (h : AppendsFit c t) :
    (encodeAcc c t).value / 2 ^ 18 = (firstHalf c t).value := by
  obtain ⟨-, -, -, -, -, -, -, hday, hmon, hylow, hyhi, hpar2⟩ := h
  have hvalue := encodeAcc_value c t
  have hhalf : (firstHalf c t).value = (accAfterSteps c t 6).value * 2 ^ 1 +
    xorfold (accAfterSteps c t 6).width (accAfterSteps c t 6).value := rfl
  omega

/-- The first half of the written frame folds to 0, its parity bit included (R85, R86). -/
theorem encodeFrame_firstHalf_parity {c : Config} {t : TimeBundle} (h : AppendsFit c t) :
    xorfold 20 ((encodeFrame c t).extractLsb' 18 20).toNat = 0 := by
  rw [encodeFrame_extractLsb' _ _ (by decide), xorfold_mod_two_pow, encodeAcc_div_eq_firstHalf h]
  exact xorfold_packParity (accAfterSteps c t 6)

/-- So does the second half: the whole of `V12` folds to 0, and its first half already does (R118). -/
theorem encodeFrame_secondHalf_parity {c : Config} {t : TimeBundle} (h : AppendsFit c t) :
    xorfold 18 ((encodeFrame c t).extractLsb' 0 18).toNat = 0 := by
  have hwhole : xorfold (20 + 18) (encodeAcc c t).value = 0 := xorfold_packParity (accAfterSteps c t 11)
  have hfirst : xorfold 20 (firstHalf c t).value = 0 := xorfold_packParity (accAfterSteps c t 6)
  have hbit := xorfold_lt_two 18 (encodeAcc c t).value
  rw [xorfold_add, encodeAcc_div_eq_firstHalf h, hfirst, xorfold_mod_two_pow] at hwhole
  rw [encodeFrame_extractLsb' _ _ (by decide), xorfold_mod_two_pow, Nat.pow_zero, Nat.div_one]
  omega

/-- The frame of a valid bundle meets the constraints of R86. -/
theorem frameOk_encodeFrame (c : Config) {t : TimeBundle} (h : validTime t = true) : FrameOk (encodeFrame c t) := by
  have hfits := appendsFit_of_validTime c h
  obtain ⟨hmarker, hrsv, hhour, hmin, hwday, -, hday, hmon, hylow, hyhi⟩ := encodeFrame_fields hfits
  obtain ⟨hyear, hmonth, hdays, -⟩ := (validTime_iff t).1 h
  exact {
    marker := hmarker ▸ hfits.marker
    rsv := hrsv
    hour := hhour ▸ hfits.hour
    min := hmin ▸ hfits.min
    wday := hwday ▸ ⟨wdayField_pos _ _, hfits.wday⟩
    day := hday ▸ hdays
    mon := hmon ▸ hmonth
    year := by rw [hyhi, hylow, yhiField, ylowField, Nat.div_add_mod]; exact hyear
    par1 := encodeFrame_firstHalf_parity hfits
    par2 := encodeFrame_secondHalf_parity hfits }

end Sys2Proof.Machine

/-! ## What decodes is well formed (R71, R74, R76, R78) -/
namespace Sys2Proof

theorem decodeCmd_wf (durW n : Nat) : (decodeCmd n).wf durW = true := by
  unfold decodeCmd
  split <;> rfl

theorem decodeSymbol_wf (durW n : Nat) : (decodeSymbol n).wf durW = true := by
  unfold decodeSymbol
  split <;> rfl

/-- Only a SEGMENT can be ill formed, and no FRAME_FIELD word stands for one. -/
theorem decodeField_wf {durW bits : Nat} {i : Instr} (h : decodeField bits = .instr i) : i.wf durW = true := by
  cases i with
  | segment l d => simp [decodeField, ite_eq_iff] at h
  | _ => rfl

theorem decodeFrame_wf {durW : Nat} {F : Frame} {i : Instr} (h : decodeFrame F = .instr i) : i.wf durW = true := by
  unfold decodeFrame at h
  split_ifs at h
  cases h
  rfl

theorem decodeMarker_wf {durW : Nat} {F : Frame} {i : Instr} (h : decodeMarker F = .instr i) : i.wf durW = true := by
  unfold decodeMarker at h
  split_ifs at h
  split at h <;> cases h <;> rfl

/-- A segment's duration is the low `DUR_W` bits of its word (R76). -/
theorem decodeSegment_wf (durW bits : Nat) : (decodeSegment durW bits).wf durW = true :=
  decide_eq_true (Nat.mod_lt bits (Nat.two_pow_pos durW))

/-- Every instruction the decoder answers has operands that fit their format, in each reading. -/
theorem decode_wf {durW : Nat} {w : Word} {i : Instr} (h : decode durW w = .instr i) : i.wf durW = true := by
  obtain ⟨reading, bits⟩ := w
  unfold decode at h
  split_ifs at h
  cases reading with
  | cmd => cases h; exact decodeCmd_wf durW bits
  | symbol => cases h; exact decodeSymbol_wf durW bits
  | field => exact decodeField_wf h
  | frame => exact decodeFrame_wf h
  | marker => exact decodeMarker_wf h
  | segment => cases h; exact decodeSegment_wf durW bits

end Sys2Proof

/-! ## O56, O14: the invariant of a run -/
namespace Sys2Proof.Machine

/-! ### One rule per update of the state -/

theorem Inv.sampled {s : State} (hs : Inv s) : Inv (sampled s) := { hs with }

/-- A reset event keeps the record of what was handed over and empties everything else (R230, log 4, 5). -/
theorem Inv.resetEvent {s : State} (hs : Inv s) : Inv (resetEvent s) where
  flags := by simp
  frame := by simp
  wave := by simp
  delivered := hs.delivered
  acc := by simp [Scratch.empty, Acc.empty]
  segs := by simp [Scratch.empty]

theorem Inv.writeFrame {s : State} {F : Frame} (hs : Inv s) (hF : FrameOk F) : Inv (writeFrame F s) :=
  { hs with
    flags := fun _ => rfl
    frame := fun _ hG => Option.some.inj hG ▸ hF }

/-- `SYNTH` finds its frame in FRAME, so WAVE_VALID comes with FRAME_VALID (R155, R175). -/
theorem Inv.writeWave {s : State} {F : Frame} (hs : Inv s) (hF : s.frame = some F) :
    Inv (writeWave (synthesize s.cfg.T F) s) :=
  { hs with
    flags := fun _ => (frameValid_iff s).2 ⟨F, hF⟩
    wave := fun _ hW => ⟨F, hs.frame F hF, (Option.some.inj hW).symm⟩ }

theorem Inv.handOver {s : State} {W : Waveform} (hs : Inv s) (hW : s.wave = some W) : Inv (handOver W s) :=
  { hs with
    flags := by simp
    frame := by simp
    wave := by simp
    delivered := by simpa [or_imp, forall_and] using ⟨hs.delivered, hs.wave W hW⟩ }

theorem Inv.setAcc {s : State} {V : Acc} (hs : Inv s) (hV : V.value < 2 ^ V.width) : Inv (setAcc V s) :=
  { hs with acc := hV }

theorem Inv.addSegments {s : State} {W : Waveform} (hs : Inv s) (hW : ∀ g ∈ W, g.dur < 2 ^ s.cfg.durW) :
    Inv (addSegments W s) :=
  { hs with segs := by simpa [or_imp, forall_and] using ⟨hs.segs, hW⟩ }

/-! ### What each row adds -/

/-- Both segments of a pulse pair last at most one second, which fits `DUR_W` bits (R6, R153). -/
theorem pulsePair_dur_lt (c : Config) {x : Nat} (hx : x ≤ 3) : ∀ g ∈ pulsePair c.T x, g.dur < 2 ^ c.durW := by
  have hlow : lowTicks c.T x ≤ c.T := lowTicks_le c.T x hx
  obtain ⟨-, hT, -⟩ := c.wf
  simp only [pulsePair, List.forall_mem_cons, highTicks]
  exact ⟨by omega, by omega, by simp⟩

/-- Every well-formed instruction keeps the invariant. -/
theorem exec_keeps_inv {i : Instr} {s t : State} (hi : i.wf s.cfg.durW = true) (hs : Inv s)
    (h : exec i s = .next t) : Inv t := by
  rcases exec_next h with ⟨-, rfl⟩ | ⟨-, htime, rfl⟩ | ⟨-, F, hF, rfl⟩ | ⟨-, W, hW, rfl⟩ |
    ⟨-, n, x, hx, rfl⟩ | ⟨-, F, rfl⟩ | ⟨-, x, hx, rfl⟩ | ⟨l, d, rfl, rfl⟩
  · exact hs
  · exact hs.writeFrame (frameOk_encodeFrame s.cfg htime)
  · exact hs.writeWave hF
  · exact hs.handOver hW
  · exact hs.setAcc (append_fits hs.acc hx)
  · exact hs.setAcc F.isLt
  · exact hs.addSegments (pulsePair_dur_lt s.cfg hx)
  · exact hs.addSegments (by simpa using of_decide_eq_true hi)

/-- Settles O56: a step is the reset event or one decoded instruction, and both keep the invariant. -/
theorem stepKeepsTheInvariant : Obligations.StepKeepsTheInvariant := by
  unfold Obligations.StepKeepsTheInvariant
  intro s t hs h
  rcases step_next h with ⟨-, rfl⟩ | ⟨-, -, i, hdec, hexec⟩
  · exact hs.sampled.resetEvent
  · exact exec_keeps_inv (s := sampled s) (decode_wf hdec) hs.sampled hexec

/-- Settles O14: at reset both registers and `delivered` are empty, and the scratch is the empty one. -/
theorem resetSatisfiesTheInvariant : Obligations.ResetSatisfiesTheInvariant where
  flags := by decide
  frame := by simp [State.reset]
  wave := by simp [State.reset]
  delivered := by simp [State.reset]
  acc := by decide
  segs := by simp [State.reset, Scratch.empty]

end Sys2Proof.Machine

/-! ## O48, O50, O51, O47: what an instruction writes and what it leaves -/
namespace Sys2Proof.Machine

/-- The flags are read off the registers alone (R34). -/
theorem frameValid_congr {s t : State} (h : t.frame = s.frame) : frameValid t = frameValid s := congrArg Option.isSome h

theorem waveValid_congr {s t : State} (h : t.wave = s.wave) : waveValid t = waveValid s := congrArg Option.isSome h

/-- A row that is no command writes the scratch and nothing else (log 5). -/
theorem exec_next_of_not_command {i : Instr} {s t : State} (hi : isCommand i = false) (h : exec i s = .next t) :
    t = { s with scratch := t.scratch } := by
  rcases exec_next h with ⟨rfl, -⟩ | ⟨rfl, -⟩ | ⟨rfl, -⟩ | ⟨rfl, -⟩ |
    ⟨-, n, x, -, rfl⟩ | ⟨-, F, rfl⟩ | ⟨-, x, -, rfl⟩ | ⟨l, d, -, rfl⟩
  · cases hi
  · cases hi
  · cases hi
  · cases hi
  · rfl
  · rfl
  · rfl
  · rfl

/-- What an instruction writes: a command its own registers, any other row the scratch. -/
theorem exec_next_writes {i : Instr} {s t : State} (h : exec i s = .next t) :
    (i = .nop ∧ t = s) ∨ (i = .encode ∧ ∃ F, t = writeFrame F s) ∨ (i = .synth ∧ ∃ W, t = writeWave W s) ∨
    (i = .take ∧ ∃ W, t = handOver W s) ∨ (isCommand i = false ∧ ∃ sc, t = { s with scratch := sc }) := by
  cases hi : isCommand i with
  | false => exact .inr (.inr (.inr (.inr ⟨rfl, _, exec_next_of_not_command hi h⟩)))
  | true =>
    cases i with
    | nop => cases h; exact .inl ⟨rfl, rfl⟩
    | encode => exact .inr (.inl ⟨rfl, _, (execEncode_next h).2⟩)
    | synth => obtain ⟨F, -, ht⟩ := execSynth_next h; exact .inr (.inr (.inl ⟨rfl, _, ht⟩))
    | take => obtain ⟨W, -, ht⟩ := execTake_next h; exact .inr (.inr (.inr (.inl ⟨rfl, W, ht⟩)))
    | _ => cases hi

/-- Settles O48, by what each instruction writes. -/
theorem eachRegisterHasItsOwnWriters : Obligations.EachRegisterHasItsOwnWriters := by
  unfold Obligations.EachRegisterHasItsOwnWriters
  intro i s t h
  rcases exec_next_writes h with ⟨rfl, rfl⟩ | ⟨rfl, F, rfl⟩ | ⟨rfl, W, rfl⟩ | ⟨rfl, W, rfl⟩ | ⟨-, sc, rfl⟩
  · simp
  · simp
  · simp
  · simp
  · simp

/-- Settles O50: outside the scratch the state is as before, and the flags are read off the registers. -/
theorem formatRowsWriteOnlyTheScratch : Obligations.FormatRowsWriteOnlyTheScratch := by
  unfold Obligations.FormatRowsWriteOnlyTheScratch
  intro i s t hi h
  have ht := exec_next_of_not_command hi h
  exact ⟨ht, frameValid_congr (by rw [ht]), waveValid_congr (by rw [ht])⟩

/-- Settles O51: what a command does is decided by the TIME ports, FRAME or WAVE alone. -/
theorem commandsDoNotSeeTheScratch : Obligations.CommandsDoNotSeeTheScratch := by
  unfold Obligations.CommandsDoNotSeeTheScratch
  intro i s sc hi
  cases i with
  | nop => rfl
  | encode => simp only [exec, execEncode]; cases firstBadField s.time <;> rfl
  | synth => simp only [exec, execSynth]; cases hF : s.frame <;> simp only [writeWave, hF]
  | take => simp only [exec, execTake]; cases s.wave <;> rfl
  | _ => cases hi

/-- A row that is no command is none of the three that write a flag. -/
theorem ne_of_not_command {i : Instr} (hi : isCommand i = false) : i ≠ .encode ∧ i ≠ .synth ∧ i ≠ .take := by
  refine ⟨?_, ?_, ?_⟩ <;> rintro rfl <;> cases hi

/-- The flag table of R27 for one instruction. -/
theorem exec_flags {i : Instr} {s t : State} (h : exec i s = .next t) :
    frameValid t = (if i = .encode then true else if i = .take then false else frameValid s) ∧
    waveValid t = (if i = .synth then true else if i = .take then false else waveValid s) := by
  rcases exec_next_writes h with ⟨rfl, rfl⟩ | ⟨rfl, F, rfl⟩ | ⟨rfl, W, rfl⟩ | ⟨rfl, W, rfl⟩ | ⟨hrow, sc, rfl⟩
  · simp
  · simp
  · simp
  · simp
  · obtain ⟨hencode, hsynth, htake⟩ := ne_of_not_command hrow
    simp only [hencode, hsynth, htake, if_false]
    exact ⟨frameValid_congr rfl, waveValid_congr rfl⟩

end Sys2Proof.Machine

/-! ## O47, O11, O58, O49, O13: what a step, whatever its outcome, leaves -/
namespace Sys2Proof.Machine

/-! ### The state after each outcome (R192, log 10) -/

theorem afterStep_next {s t : State} (h : step s = .next t) : afterStep s = t := by simp only [afterStep, h]

theorem afterStep_fault {s : State} {r : Fault} (h : step s = .fault r) : afterStep s = markFaulted (sampled s) := by
  simp only [afterStep, h]

theorem afterStep_refused {s : State} {r : Refusal} (h : step s = .refused r) : afterStep s = sampled s := by
  simp only [afterStep, h]

/-! ### When a step is not taken -/

theorem step_of_reset {s : State} (h : (nextSample s).reset = true) : step s = .next (resetEvent (sampled s)) := by
  simp only [step, h, if_true]

theorem step_of_faulted {s : State} (hreset : (nextSample s).reset = false) (hf : s.faulted = true) :
    step s = .refused .noStepWhileFaulted := by
  simp [step, hreset, hf]

theorem packFrom_ne_refused (f : TimeField) (pack : Acc → Acc) (s : State) (r : Refusal) :
    packFrom f pack s ≠ .refused r := by
  unfold packFrom
  split <;> nofun

/-- Every instruction has a meaning in every state: it completes or faults (R174, R191). -/
theorem exec_ne_refused (i : Instr) (s : State) (r : Refusal) : exec i s ≠ .refused r := by
  cases i with
  | encode => simp only [exec, execEncode]; split <;> nofun
  | synth => simp only [exec, execSynth]; split <;> nofun
  | take => simp only [exec, execTake]; split <;> nofun
  | stepMarker | stepHour | stepMin | stepWday | stepPm | stepDay | stepMon | stepYlow | stepYhi =>
    exact packFrom_ne_refused _ _ s r
  | _ => nofun

/-- Everything that can make a step a refused one: the mark, or a word that does not decode. -/
theorem step_refused {s : State} {r : Refusal} (h : step s = .refused r) :
    (nextSample s).reset = false ∧
    (r = .noStepWhileFaulted ∧ s.faulted = true ∨
      ∃ why, r = .undecodable why ∧ s.faulted = false ∧ decode s.cfg.durW (nextSample s).word = .rejected why) := by
  unfold step at h
  split at h
  · cases h
  · rename_i hreset
    refine ⟨Bool.eq_false_iff.2 hreset, ?_⟩
    split at h
    · cases h; exact .inl ⟨rfl, ‹_›⟩
    · rename_i hf
      split at h
      · cases h; exact .inr ⟨_, rfl, Bool.eq_false_iff.2 hf, ‹_›⟩
      · exact absurd h (exec_ne_refused _ _ r)

/-! ### The statements -/

/-- Settles O47: the reset event clears both flags, a decoded instruction follows R27's table, a fault writes the mark alone. -/
theorem flagsFollowTheirTable : Obligations.FlagsFollowTheirTable := by
  unfold Obligations.FlagsFollowTheirTable
  intro s
  refine ⟨fun u hreset h => ?_, fun i u hreset hdec h => ?_, fun r h => ?_⟩
  · rw [step_of_reset hreset] at h
    cases h
    exact ⟨rfl, rfl⟩
  · rcases step_next h with ⟨hreset', -⟩ | ⟨-, -, j, hdec', hexec⟩
    · simp [hreset] at hreset'
    · obtain rfl : i = j := by simpa [hdec] using hdec'
      simpa using exec_flags hexec
  · rw [afterStep_fault h]
    exact ⟨rfl, rfl⟩

/-- Settles O11: a fault sets the mark, the mark refuses every sample without the reset event, the reset event clears it. -/
theorem faultedMarkStopsAllButReset : Obligations.FaultedMarkStopsAllButReset := by
  unfold Obligations.FaultedMarkStopsAllButReset
  refine ⟨fun s r h => ?_, fun s hf hreset => ?_, fun s _ hreset => ?_⟩
  · rw [afterStep_fault h, markFaulted_faulted]
  · have hstep := step_of_faulted hreset hf
    rw [afterStep_refused hstep]
    exact ⟨hstep, hf, rfl, rfl⟩
  · rw [afterStep_next (step_of_reset hreset), resetEvent_faulted]

/-- Settles O58: the two grounds are those of `step_refused`, and only the sample is consumed. -/
theorem refusedStepExecutesNothing : Obligations.RefusedStepExecutesNothing := by
  unfold Obligations.RefusedStepExecutesNothing
  intro s r h
  obtain ⟨hreset, hground⟩ := step_refused h
  rw [afterStep_refused h]
  exact ⟨hreset, hground, rfl, rfl, rfl⟩

/-- One step leaves the configuration, whatever its outcome. -/
theorem afterStep_cfg (s : State) : (afterStep s).cfg = s.cfg := by
  cases h : step s with
  | fault r => rw [afterStep_fault h]; rfl
  | refused r => rw [afterStep_refused h]; rfl
  | next t =>
    rw [afterStep_next h]
    rcases step_next h with ⟨-, rfl⟩ | ⟨-, -, i, -, hexec⟩
    · rfl
    · obtain ⟨-, -, -, hcfg, -⟩ := eachRegisterHasItsOwnWriters i (sampled s) t hexec
      exact hcfg

/-- Settles O49, by induction on the number of steps. -/
theorem noStepChangesTheConfiguration : Obligations.NoStepChangesTheConfiguration := by
  unfold Obligations.NoStepChangesTheConfiguration
  intro s n
  induction n generalizing s with
  | zero => rfl
  | succ n ih =>
    calc (afterSteps n (afterStep s)).cfg
      _ = (afterStep s).cfg := ih (afterStep s)
      _ = s.cfg := afterStep_cfg s

/-- Settles O13: reset by its definition (R31), each flag by the presence of its register (R34). -/
theorem resetStateHoldsNoValue : Obligations.ResetStateHoldsNoValue := by
  unfold Obligations.ResetStateHoldsNoValue
  exact ⟨rfl, rfl, rfl, frameValid_iff, waveValid_iff⟩

end Sys2Proof.Machine

/-! ## O43: a command repeated (R55, R171) -/
namespace Sys2Proof.Machine

/-! ### When each command completes, and when `TAKE` faults -/

theorem exec_encode_of_validTime {s : State} (h : validTime s.time = true) :
    exec .encode s = .next (writeFrame (encodeFrame s.cfg s.time) s) := by
  simp only [exec, execEncode, (firstBadField_eq_none_iff _).2 h]

theorem exec_synth_of_frame {s : State} {F : Frame} (h : s.frame = some F) :
    exec .synth s = .next (writeWave (synthesize s.cfg.T F) s) := by
  simp only [exec, execSynth, h]

theorem exec_take_of_no_wave {s : State} (h : s.wave = none) : exec .take s = .fault .noWave := by
  simp only [exec, execTake, h]

/-! ### The same register value written twice -/

@[simp] theorem writeFrame_writeFrame (F G : Frame) (s : State) : writeFrame F (writeFrame G s) = writeFrame F s := rfl

@[simp] theorem writeWave_writeWave (U W : Waveform) (s : State) : writeWave U (writeWave W s) = writeWave U s := rfl

/-- `ENCODE` writes neither the ports nor the configuration it reads, so a second one writes the same frame. -/
theorem exec_encode_idempotent {s t : State} (h : exec .encode s = .next t) : exec .encode t = .next t := by
  obtain ⟨htime, rfl⟩ := execEncode_next h
  have hagain := exec_encode_of_validTime (s := writeFrame (encodeFrame s.cfg s.time) s) htime
  simpa using hagain

/-- `SYNTH` leaves the frame it reads, so a second one writes the same waveform. -/
theorem exec_synth_idempotent {s t : State} (h : exec .synth s = .next t) : exec .synth t = .next t := by
  obtain ⟨F, hF, rfl⟩ := execSynth_next h
  have hagain := exec_synth_of_frame (s := writeWave (synthesize s.cfg.T F) s) hF
  simpa using hagain

/-! ### What keeps WAVE empty -/

/-- `TAKE` leaves WAVE empty (R32, R171). -/
theorem exec_take_wave {s t : State} (h : exec .take s = .next t) : t.wave = none := by
  obtain ⟨W, -, rfl⟩ := execTake_next h
  rfl

/-- Only `SYNTH` fills WAVE (R26). -/
theorem exec_keeps_no_wave {i : Instr} {s t : State} (hi : i ≠ .synth) (hs : s.wave = none) (h : exec i s = .next t) :
    t.wave = none := by
  by_cases htake : i = .take
  · exact exec_take_wave (htake ▸ h)
  · obtain ⟨-, hwave, -⟩ := eachRegisterHasItsOwnWriters i s t h
    rw [hwave hi htake, hs]

/-! ### Running several instructions -/

/-- A list that completes completes its first instruction, and the rest from there. -/
theorem execAll_cons_next {i : Instr} {is : List Instr} {s t : State} (h : execAll (i :: is) s = .next t) :
    ∃ u, exec i s = .next u ∧ execAll is u = .next t := by
  rw [execAll] at h
  split at h
  · exact ⟨_, ‹_›, h⟩
  · cases h
  · cases h

/-- Any number of leading NOPs does nothing (R170). -/
theorem execAll_replicate_nop_append (n : Nat) (is : List Instr) (s : State) :
    execAll (List.replicate n .nop ++ is) s = execAll is s := by
  induction n with
  | zero => rfl
  | succ n ih => exact ih

/-- A completed list without `SYNTH` keeps WAVE empty. -/
theorem execAll_keeps_no_wave {is : List Instr} {s t : State} (hsynth : Instr.synth ∉ is) (hs : s.wave = none)
    (h : execAll is s = .next t) : t.wave = none := by
  induction is generalizing s with
  | nil => cases h; exact hs
  | cons i is ih =>
    obtain ⟨hi, his⟩ := List.ne_and_not_mem_of_not_mem_cons hsynth
    obtain ⟨u, hexec, hrest⟩ := execAll_cons_next h
    exact ih his (exec_keeps_no_wave (Ne.symm hi) hs hexec) hrest

theorem execAll_take_of_no_wave {s : State} (h : s.wave = none) : execAll [.take] s = .fault .noWave := by
  simp only [execAll, exec_take_of_no_wave h]

/-- Settles O43: `ENCODE` and `SYNTH` leave what they read, and WAVE stays empty from a `TAKE` to the next `SYNTH`. -/
theorem repeatedCommandsAreIdempotentButTake : Obligations.RepeatedCommandsAreIdempotentButTake := by
  unfold Obligations.RepeatedCommandsAreIdempotentButTake
  intro s u
  refine ⟨exec_encode_idempotent, exec_synth_idempotent, fun htake => ?_⟩
  have hu : u.wave = none := exec_take_wave htake
  refine ⟨exec_take_of_no_wave hu, fun n => ?_, fun between v hsynth h => ?_⟩
  · rw [execAll_replicate_nop_append, execAll_take_of_no_wave hu]
  · exact exec_take_of_no_wave (execAll_keeps_no_wave hsynth hu h)

end Sys2Proof.Machine

/-! ## O54: the read functions (R60) -/
namespace Sys2Proof.Machine

theorem readSym_of_frame {s : State} {F : Frame} (h : s.frame = some F) (i : BitVec 5) :
    readSym s i = if i.toNat ≤ 18 then some (sym F i.toNat) else none := by
  simp only [readSym, h]

theorem readSym_of_no_frame {s : State} (h : s.frame = none) (i : BitVec 5) : readSym s i = none := by
  simp only [readSym, h]

theorem readSeg_of_wave {s : State} {W : Waveform} (h : s.wave = some W) (k : BitVec 6) :
    readSeg s k = if k.toNat ≤ 38 then W[k.toNat]? else none := by
  simp only [readSeg, h]

theorem readSeg_of_no_wave {s : State} (h : s.wave = none) (k : BitVec 6) : readSeg s k = none := by
  simp only [readSeg, h]

theorem frameValid_eq_false_of_no_frame {s : State} (h : s.frame = none) : frameValid s = false := by
  rw [frameValid, h, Option.isSome_none]

theorem waveValid_eq_false_of_no_wave {s : State} (h : s.wave = none) : waveValid s = false := by
  rw [waveValid, h, Option.isSome_none]

/-- Settles O54, by whether each register holds a value; in a full WAVE every index to 38 has its segment. -/
theorem readFunctionsReadTheRegisters : Obligations.ReadFunctionsReadTheRegisters := by
  unfold Obligations.ReadFunctionsReadTheRegisters
  intro s
  refine ⟨fun F hF => ?_, fun hF => ?_, fun W hW hlen => ?_, fun hW => ?_⟩
  · exact ⟨(frameValid_iff s).2 ⟨F, hF⟩, hF, readSym_of_frame hF⟩
  · exact ⟨frameValid_eq_false_of_no_frame hF, hF, readSym_of_no_frame hF⟩
  · refine ⟨(waveValid_iff s).2 ⟨W, hW⟩, fun k => ⟨fun hk => ?_, fun hk => ?_⟩⟩
    · have hget : W[k.toNat]? = some W[k.toNat] := List.getElem?_eq_getElem (by omega)
      exact ⟨_, hget, by rw [readSeg_of_wave hW, if_pos hk, hget]⟩
    · rw [readSeg_of_wave hW, if_neg (Nat.not_le.2 hk)]
  · exact ⟨waveValid_eq_false_of_no_wave hW, readSeg_of_no_wave hW⟩

end Sys2Proof.Machine

/-! ## O1, O2, O5, O3, O4: the decoder and the encoder (R70 to R78) -/
namespace Sys2Proof

/-! ### The frame layout as weights (R71) -/

theorem toNat_append_eq_add {m n : Nat} (x : BitVec m) (y : BitVec n) :
    (x ++ y).toNat = x.toNat * 2 ^ n + y.toNat := by
  rw [BitVec.toNat_append, ← Nat.shiftLeft_add_eq_or_of_lt y.isLt, Nat.shiftLeft_eq]

/-- A laid-out frame is the sum of its fields, each weighted by its place. -/
theorem frameLayout_toNat (k : BitVec 2) (r : FrameRest) : (frameLayout k r).toNat =
    k.toNat * 2 ^ 36 + r.hour.toNat * 2 ^ 30 + r.min.toNat * 2 ^ 24 + r.wday.toNat * 2 ^ 20 + r.pm.toNat * 2 ^ 19 +
      r.par1.toNat * 2 ^ 18 + r.day.toNat * 2 ^ 12 + r.mon.toNat * 2 ^ 8 + r.ylow.toNat * 2 ^ 2 + r.yhi.toNat * 2 +
      r.par2.toNat := by
  simp only [frameLayout, toNat_append_eq_add, BitVec.toNat_ofNat]
  omega

/-- A slice of a value as quotient and remainder, the spelling `omega` reads. -/
theorem toNat_extractLsb' {w : Nat} (i n : Nat) (x : BitVec w) :
    (x.extractLsb' i n).toNat = x.toNat / 2 ^ i % 2 ^ n := by
  rw [BitVec.extractLsb'_toNat, Nat.shiftRight_eq_div_pow]

/-- Each field of a laid-out frame is read back from its place. -/
theorem ofFrame_frameLayout (k : BitVec 2) (r : FrameRest) : FrameRest.ofFrame (frameLayout k r) = r := by
  have hvalue := frameLayout_toNat k r
  obtain ⟨hour, min, wday, pm, par1, day, mon, ylow, yhi, par2⟩ := r
  dsimp only at hvalue
  simp only [FrameRest.ofFrame, FrameRest.mk.injEq]
  refine ⟨?_, ?_, ?_, ?_, ?_, ?_, ?_, ?_, ?_, ?_⟩ <;>
    (apply BitVec.eq_of_toNat_eq; rw [toNat_extractLsb']; omega)

/-- A frame whose reserved bits are 0 is laid out from its own fields. -/
theorem frameLayout_ofFrame {F : Frame} (h : F.extractLsb' 34 2 = 0#2) :
    frameLayout (F.extractLsb' 36 2) (FrameRest.ofFrame F) = F := by
  rw [frameLayout, FrameRest.ofFrame, ← h]
  simp only [BitVec.extractLsb'_append_extractLsb'_eq_extractLsb']
  exact BitVec.extractLsb'_eq_self

/-! ### Each reading of the decoder, on a word of its length (R70) -/

section
variable {durW n : Nat}

theorem decode_cmd (h : n < 2 ^ 2) : decode durW ⟨.cmd, n⟩ = .instr (decodeCmd n) := if_pos h

theorem decode_symbol (h : n < 2 ^ 2) : decode durW ⟨.symbol, n⟩ = .instr (decodeSymbol n) := if_pos h

theorem decode_field (h : n < 2 ^ 38) : decode durW ⟨.field, n⟩ = decodeField n := if_pos h

theorem decode_frame (h : n < 2 ^ 38) : decode durW ⟨.frame, n⟩ = decodeFrame (BitVec.ofNat 38 n) := if_pos h

theorem decode_marker (h : n < 2 ^ 38) : decode durW ⟨.marker, n⟩ = decodeMarker (BitVec.ofNat 38 n) := if_pos h

theorem decode_segment (h : n < 2 ^ (1 + durW)) : decode durW ⟨.segment, n⟩ = .instr (decodeSegment durW n) := if_pos h

end

theorem decode_frame_toNat (durW : Nat) (F : Frame) : decode durW ⟨.frame, F.toNat⟩ = decodeFrame F := by
  rw [decode_frame F.isLt, BitVec.ofNat_toNat, BitVec.setWidth_eq]

theorem decode_marker_toNat (durW : Nat) (F : Frame) : decode durW ⟨.marker, F.toNat⟩ = decodeMarker F := by
  rw [decode_marker F.isLt, BitVec.ofNat_toNat, BitVec.setWidth_eq]

/-- Only a word of its reading's length decodes (R70). -/
theorem lt_of_decode {durW n : Nat} {reading : Reading} {i : Instr} (h : decode durW ⟨reading, n⟩ = .instr i) :
    n < 2 ^ reading.width durW := by
  by_contra hwide
  rw [decode, if_neg hwide] at h
  cases h

/-! ### A frame word by its reserved bits and its marker (R71, R78, R84) -/

/-- What the marker reading makes of a marker value and the fields below it (R78). -/
def markerRow (marker : Nat) (r : FrameRest) : Decoded :=
  match marker with
  | 0 => .instr (.marker0 r)
  | 1 => .instr (.marker1 r)
  | 2 => .instr (.marker2 r)
  | _ => .rejected .markerThree

section
variable {F : Frame}

theorem decodeFrame_of_rsv_zero (h : F.extractLsb' 34 2 = 0#2) :
    decodeFrame F = .instr (.frame (F.extractLsb' 36 2) (FrameRest.ofFrame F)) := if_pos h

theorem decodeMarker_of_rsv_zero (h : F.extractLsb' 34 2 = 0#2) :
    decodeMarker F = markerRow (F.extractLsb' 36 2).toNat (FrameRest.ofFrame F) := if_pos h

theorem decodeFrame_of_rsv_ne_zero (h : F.extractLsb' 34 2 ≠ 0#2) : decodeFrame F = .rejected .reservedSet := if_neg h

theorem decodeMarker_of_rsv_ne_zero (h : F.extractLsb' 34 2 ≠ 0#2) : decodeMarker F = .rejected .reservedSet := if_neg h

end

/-! ### O1: from the instruction to its word and back -/

theorem decodeFrame_frameLayout (k : BitVec 2) (r : FrameRest) :
    decodeFrame (frameLayout k r) = .instr (.frame k r) := by
  rw [decodeFrame_of_rsv_zero (frameLayout_rsv k r), frameLayout_marker, ofFrame_frameLayout]

theorem decodeMarker_frameLayout (k : BitVec 2) (r : FrameRest) :
    decodeMarker (frameLayout k r) = markerRow k.toNat r := by
  rw [decodeMarker_of_rsv_zero (frameLayout_rsv k r), frameLayout_marker, ofFrame_frameLayout]

/-- The bits above a segment's duration are its level, the rest is the duration (R76). -/
theorem decodeSegment_layout {durW d : Nat} (l : Level) (h : d < 2 ^ durW) :
    decodeSegment durW (l.bit * 2 ^ durW + d) = .segment l d := by
  have hdiv : (l.bit * 2 ^ durW + d) / 2 ^ durW = l.bit := by
    rw [Nat.mul_comm, Nat.mul_add_div (Nat.two_pow_pos durW), Nat.div_eq_of_lt h, Nat.add_zero]
  rw [decodeSegment, hdiv, Level.ofBit_bit, Nat.mul_add_mod_of_lt h]

/-- Settles O1, row by row: a fixed word decodes by evaluation, a frame or a segment by reading its fields back. -/
theorem decodeOfEncodeIsTheInstruction : Obligations.DecodeOfEncodeIsTheInstruction := by
  unfold Obligations.DecodeOfEncodeIsTheInstruction
  intro durW i hwf
  cases i with
  | frame k r => rw [encode, decode_frame_toNat, decodeFrame_frameLayout]
  | marker0 r | marker1 r | marker2 r =>
    rw [encode, decode_marker_toNat, decodeMarker_frameLayout]
    rfl
  | segment l d =>
    have hfits : l.bit * 2 ^ durW + d < 2 ^ (1 + durW) := Laws.EncodedFits.segment l d durW hwf
    rw [encode, decode_segment hfits, decodeSegment_layout l (of_decide_eq_true hwf)]
  | _ => rfl

/-! ### O2: from a word that decodes to its instruction and back -/

section
variable {durW n : Nat} {i : Instr}

theorem encode_decodeCmd (h : n < 2 ^ 2) : encode durW (decodeCmd n) = ⟨.cmd, n⟩ := by
  interval_cases n <;> rfl

theorem encode_decodeSymbol (h : n < 2 ^ 2) : encode durW (decodeSymbol n) = ⟨.symbol, n⟩ := by
  interval_cases n <;> rfl

/-- One comparison of the FRAME_FIELD reading: the row it answers has the mask compared with as its word (log 6). -/
theorem encode_of_mask_row {mask : Nat} {row : Instr} {rest : Decoded} (hrow : encode durW row = ⟨.field, mask⟩)
    (hrest : rest = .instr i → encode durW i = ⟨.field, n⟩) :
    (if n = mask then .instr row else rest) = Decoded.instr i → encode durW i = ⟨.field, n⟩ := by
  intro h
  by_cases hmask : n = mask
  · rw [if_pos hmask] at h
    cases h
    rw [hrow, hmask]
  · rw [if_neg hmask] at h
    exact hrest h

theorem encode_of_decodeField : decodeField n = .instr i → encode durW i = ⟨.field, n⟩ := by
  unfold decodeField
  iterate 12 refine encode_of_mask_row rfl ?_
  nofun

theorem encode_of_decodeFrame {F : Frame} (h : decodeFrame F = .instr i) : encode durW i = ⟨.frame, F.toNat⟩ := by
  by_cases hr : F.extractLsb' 34 2 = 0#2
  · rw [decodeFrame_of_rsv_zero hr] at h
    cases h
    rw [encode, frameLayout_ofFrame hr]
  · rw [decodeFrame_of_rsv_ne_zero hr] at h
    cases h

/-- The row of a marker value carries that value in its word. -/
theorem encode_of_markerRow {k : BitVec 2} {r : FrameRest} (h : markerRow k.toNat r = .instr i) :
    encode durW i = ⟨.marker, (frameLayout k r).toNat⟩ := by
  unfold markerRow at h
  split at h
  case h_1 hk => cases h; rw [encode, BitVec.eq_of_toNat_eq (y := 0#2) hk]
  case h_2 hk => cases h; rw [encode, BitVec.eq_of_toNat_eq (y := 1#2) hk]
  case h_3 hk => cases h; rw [encode, BitVec.eq_of_toNat_eq (y := 2#2) hk]
  case h_4 => cases h

theorem encode_of_decodeMarker {F : Frame} (h : decodeMarker F = .instr i) : encode durW i = ⟨.marker, F.toNat⟩ := by
  by_cases hr : F.extractLsb' 34 2 = 0#2
  · rw [decodeMarker_of_rsv_zero hr] at h
    rw [encode_of_markerRow h, frameLayout_ofFrame hr]
  · rw [decodeMarker_of_rsv_ne_zero hr] at h
    cases h

theorem Level.bit_ofBit (h : n < 2) : (Level.ofBit n).bit = n := by
  interval_cases n <;> rfl

theorem encode_decodeSegment (h : n < 2 ^ (1 + durW)) : encode durW (decodeSegment durW n) = ⟨.segment, n⟩ := by
  have hlevel : n / 2 ^ durW < 2 := Nat.div_lt_of_lt_mul (by rwa [Nat.mul_comm, ← Nat.pow_add_one', Nat.add_comm])
  rw [decodeSegment, encode, Level.bit_ofBit hlevel, Nat.div_add_mod']

end

/-- What decodes encodes back to its word, in each reading. -/
theorem encode_of_decode {durW : Nat} {w : Word} {i : Instr} (h : decode durW w = .instr i) : encode durW i = w := by
  obtain ⟨reading, n⟩ := w
  have hlt := lt_of_decode h
  cases reading with
  | cmd => rw [decode_cmd hlt] at h; cases h; exact encode_decodeCmd hlt
  | symbol => rw [decode_symbol hlt] at h; cases h; exact encode_decodeSymbol hlt
  | field => rw [decode_field hlt] at h; exact encode_of_decodeField h
  | frame =>
    rw [decode_frame hlt] at h
    rw [encode_of_decodeFrame h, BitVec.toNat_ofNat, Nat.mod_eq_of_lt (b := 2 ^ 38) hlt]
  | marker =>
    rw [decode_marker hlt] at h
    rw [encode_of_decodeMarker h, BitVec.toNat_ofNat, Nat.mod_eq_of_lt (b := 2 ^ 38) hlt]
  | segment => rw [decode_segment hlt] at h; cases h; exact encode_decodeSegment hlt

/-- Settles O2, by the two halves for a word that decodes. -/
theorem encodeOfDecodeIsTheWord : Obligations.EncodeOfDecodeIsTheWord := by
  unfold Obligations.EncodeOfDecodeIsTheWord
  exact fun durW w i h => ⟨decode_wf h, encode_of_decode h⟩

/-! ### O5, O3, O4: particular words -/

/-- Settles O5, by the reserved bits and then the marker. -/
theorem reservedFrameWordsAreRejected : Obligations.ReservedFrameWordsAreRejected := by
  unfold Obligations.ReservedFrameWordsAreRejected
  intro durW F
  rw [decode_frame_toNat, decode_marker_toNat]
  refine ⟨fun hr => ⟨decodeFrame_of_rsv_ne_zero hr, decodeMarker_of_rsv_ne_zero hr⟩, fun hr hk => ?_⟩
  rw [decodeMarker_of_rsv_zero hr, hk]
  rfl

/-- Settles O3: a two-bit word has the length of its format, and the four codes are R74's. -/
theorem everyCommandCodeIsAssigned : Obligations.EveryCommandCodeIsAssigned := by
  unfold Obligations.EveryCommandCodeIsAssigned
  intro durW c
  rw [Word.ofCmd, decode_cmd c.isLt]
  congr 1
  revert c
  decide

/-- Settles O4, by evaluating the decoder on the five words. -/
theorem specWordsDecode : Obligations.SpecWordsDecode := by
  unfold Obligations.SpecWordsDecode
  decide

end Sys2Proof

/-! ## O17, O19, O20, O25: the bits of the frame `ENCODE` writes (R71, R78, R85, R86) -/
namespace Sys2Proof.Machine

/-- A slice that folds to 0 has as its low bit the fold of the bits above it (R85). -/
theorem extractLsb'_eq_xorfold_of_even (F : Frame) (i n : Nat)
    (h : xorfold (n + 1) (F.extractLsb' i (n + 1)).toNat = 0) :
    (F.extractLsb' i 1).toNat = xorfold n (F.extractLsb' (i + 1) n).toNat := by
  have hupper : (F.extractLsb' i (n + 1)).toNat / 2 ^ 1 = (F.extractLsb' (i + 1) n).toNat := by
    rw [toNat_extractLsb', toNat_extractLsb', Nat.pow_add, Nat.pow_add, Nat.mul_comm (2 ^ n), Nat.mod_mul_right_div_self,
      Nat.div_div_eq_div_mul]
  have hlow : (F.extractLsb' i (n + 1)).toNat % 2 ^ 1 = (F.extractLsb' i 1).toNat := by
    rw [toNat_extractLsb', toNat_extractLsb', Nat.pow_add, Nat.mul_comm, Nat.mod_mul_right_mod]
  have hbit : (F.extractLsb' i 1).toNat < 2 := (F.extractLsb' i 1).isLt
  have hfold := xorfold_lt_two n (F.extractLsb' (i + 1) n).toNat
  rw [xorfold_add, hupper, hlow, xorfold_bit hbit] at h
  omega

/-- Settles O17: each slice holds the value its packing step appended, each parity bit the fold of the bits above it. -/
theorem encodedFrameHoldsEachField : Obligations.EncodedFrameHoldsEachField := by
  unfold Obligations.EncodedFrameHoldsEachField
  intro s h
  have hfits := appendsFit_of_validTime s.cfg h
  obtain ⟨hmarker, hrsv, hhour, hmin, hwday, hpm, hday, hmon, hylow, hyhi⟩ := encodeFrame_fields hfits
  have hpar1 := extractLsb'_eq_xorfold_of_even _ 18 19 (encodeFrame_firstHalf_parity hfits)
  have hpar2 := extractLsb'_eq_xorfold_of_even _ 0 17 (encodeFrame_secondHalf_parity hfits)
  exact ⟨encodeFrame s.cfg s.time, exec_encode_of_validTime h, hmarker, hrsv, hhour, hmin, hwday, hpm, hpar1, hday, hmon,
    hylow, hyhi, hpar2⟩

/-- `ENCODE` completes exactly on a valid bundle (R75, R100). -/
theorem exec_encode_completes_iff (s : State) : (∃ u, exec .encode s = .next u) ↔ validTime s.time = true := by
  constructor
  · rintro ⟨u, h⟩
    exact (execEncode_next h).1
  · intro h
    exact ⟨_, exec_encode_of_validTime h⟩

/-- Settles O19: a bundle is valid exactly on the seven ranges. -/
theorem encodeCompletesExactlyOnTheSevenRanges : Obligations.EncodeCompletesExactlyOnTheSevenRanges := by
  unfold Obligations.EncodeCompletesExactlyOnTheSevenRanges
  intro s
  rw [exec_encode_completes_iff, validTime_iff]
  simp only [and_assoc]

/-- Both parity constraints of R86 are what `parity_ok` checks (R90). -/
theorem FrameOk.parityOk {F : Frame} (h : FrameOk F) : parityOk F = true := by
  simp only [Machine.parityOk, h.par1, h.par2, beq_self_eq_true, Bool.and_self]

/-- Settles O20: the frame of a valid bundle meets R86, of which `parity_ok` is a part; every frame has 19 symbols. -/
theorem encodedFrameMeetsTheConstraints : Obligations.EncodedFrameMeetsTheConstraints := by
  unfold Obligations.EncodedFrameMeetsTheConstraints
  intro s h
  have hok := frameOk_encodeFrame s.cfg h
  exact ⟨_, exec_encode_of_validTime h, hok, hok.parityOk, symbols_length _⟩

/-- The marker reading of an encoded frame answers the row of its marker value (R78, R84). -/
theorem decode_encodeFrame (c : Config) {t : TimeBundle} (h : validTime t = true) :
    decode c.durW ⟨.marker, (encodeFrame c t).toNat⟩ =
      markerRow (markerField c.markerMode t.second.toNat) (FrameRest.ofFrame (encodeFrame c t)) := by
  obtain ⟨hmarker, hrsv, -⟩ := encodeFrame_fields (appendsFit_of_validTime c h)
  rw [decode_marker_toNat, decodeMarker_of_rsv_zero (BitVec.eq_of_toNat_eq hrsv), hmarker]

/-- Settles O25, by the boundaries of each marker mode. -/
theorem encodedFrameIsAWordOfItsMarkerRow : Obligations.EncodedFrameIsAWordOfItsMarkerRow := by
  unfold Obligations.EncodedFrameIsAWordOfItsMarkerRow
  intro c t h
  refine ⟨FrameRest.ofFrame (encodeFrame c t), ?_⟩
  rw [decode_encodeFrame c h]
  cases c.markerMode with
  | lt20 => simp only [markerField, Nat.lt_succ_iff]; split_ifs <;> rfl
  | lt21 => simp only [markerField, Nat.lt_succ_iff]; split_ifs <;> rfl

end Sys2Proof.Machine

/-! ## O31: the 39 segments of `SYNTH` (R77, R141, R147) -/
namespace Sys2Proof.Machine

/-- In a run of pulse pairs the pair of the `i`-th symbol stands at places `2 * i` and `2 * i + 1` (R146). -/
theorem pairs_getElem? (T : Nat) {xs : List Symbol} {i : Nat} {x : Symbol} (h : xs[i]? = some x) :
    (xs.flatMap fun y => pulsePair T y.toNat)[2 * i]? = some { lvl := .low, dur := lowTicks T x.toNat } ∧
    (xs.flatMap fun y => pulsePair T y.toNat)[2 * i + 1]? = some { lvl := .high, dur := highTicks T x.toNat } := by
  induction xs generalizing i with
  | nil => simp at h
  | cons y ys ih =>
    cases i with
    | zero =>
      obtain rfl : y = x := by simpa using h
      exact ⟨rfl, rfl⟩
    | succ i => exact ih (by simpa using h)

theorem symbols_getElem? (F : Frame) {i : Nat} (h : i ≤ 18) : (symbols F)[i]? = some (sym F i) := by
  rw [symbols, List.getElem?_map, List.getElem?_range (by omega), Option.map_some]

theorem symbolPairs_length (T : Nat) (F : Frame) :
    ((symbols F).flatMap fun x => pulsePair T x.toNat).length = 38 := by
  rw [pairs_length, symbols_length]

theorem synthesize_length (T : Nat) (F : Frame) : (synthesize T F).length = 39 := by
  rw [synthesize, List.length_append, symbolPairs_length, List.length_singleton]

/-- The first 38 segments are those of the 19 pairs. -/
theorem synthesize_getElem?_of_lt (T : Nat) (F : Frame) {k : Nat} (h : k < 38) :
    (synthesize T F)[k]? = ((symbols F).flatMap fun x => pulsePair T x.toNat)[k]? :=
  List.getElem?_append_left (by rwa [symbolPairs_length])

/-- The last one is the trailer (R147). -/
theorem synthesize_getElem?_last (T : Nat) (F : Frame) : (synthesize T F)[38]? = some (trailer T) := by
  rw [synthesize, List.getElem?_append_right (by rw [symbolPairs_length]), symbolPairs_length]
  rfl

/-- Settles O31: pair `i` is that of the frame's `i`-th symbol, and the trailer stands after the 19 pairs. -/
theorem synthWritesTheWaveform : Obligations.SynthWritesTheWaveform := by
  unfold Obligations.SynthWritesTheWaveform
  intro s F hF
  refine ⟨synthesize s.cfg.T F, exec_synth_of_frame hF, synthesize_length _ F, fun i hi => ?_,
    synthesize_getElem?_last _ F⟩
  rw [synthesize_getElem?_of_lt _ F (by omega), synthesize_getElem?_of_lt _ F (by omega)]
  exact pairs_getElem? s.cfg.T (symbols_getElem? F hi)

end Sys2Proof.Machine

/-! ## O52, O53, O29, O57: the format rows, a port out of range, a refused word (log 5, 8, 15) -/
namespace Sys2Proof.Machine

theorem exec_frame (k : BitVec 2) (r : FrameRest) (s : State) :
    exec (.frame k r) s = .next (setAcc (accOfFrame (frameLayout k r)) s) := rfl

theorem exec_marker0 (r : FrameRest) (s : State) :
    exec (.marker0 r) s = .next (setAcc (accOfFrame (frameLayout 0#2 r)) s) := rfl

theorem exec_marker1 (r : FrameRest) (s : State) :
    exec (.marker1 r) s = .next (setAcc (accOfFrame (frameLayout 1#2 r)) s) := rfl

theorem exec_marker2 (r : FrameRest) (s : State) :
    exec (.marker2 r) s = .next (setAcc (accOfFrame (frameLayout 2#2 r)) s) := rfl

/-- Settles O52: each row writes its laid-out frame, whose value is the weighted sum of its fields. -/
theorem frameRowsLayOutTheirFields : Obligations.FrameRowsLayOutTheirFields := by
  unfold Obligations.FrameRowsLayOutTheirFields
  intro s k r low hlow
  have hvalue (m : BitVec 2) : (frameLayout m r).toNat = m.toNat * 2 ^ 36 + low := by
    rw [frameLayout_toNat]
    omega
  have hzero : (frameLayout 0#2 r).toNat = low := by simpa using hvalue 0#2
  refine ⟨?_, ?_, ?_, ?_⟩
  · rw [exec_frame, accOfFrame, hvalue]; rfl
  · rw [exec_marker0, accOfFrame, hzero]; rfl
  · rw [exec_marker1, accOfFrame, hvalue]; rfl
  · rw [exec_marker2, accOfFrame, hvalue]; rfl

/-- Settles O53: it is the meaning of the row (R76). -/
theorem segmentRowAddsItsSegment : Obligations.SegmentRowAddsItsSegment := by
  unfold Obligations.SegmentRowAddsItsSegment
  intro s l d
  rfl

/-- A packing step whose port carries a value out of range faults with that port and value (log 8). -/
theorem packFrom_of_out_of_range {f : TimeField} {pack : Acc → Acc} {s : State} {v : Nat}
    (hv : portValue s.time f = v) (h : inRange f v = false) : packFrom f pack s = .fault (.timeRange f v) := by
  rw [packFrom, hv, h]
  rfl

/-- Settles O29: every row with a port is `packFrom` of that port. -/
theorem packingRowOutOfRangeFaults : Obligations.PackingRowOutOfRangeFaults := by
  unfold Obligations.PackingRowOutOfRangeFaults
  intro s
  refine ⟨fun hsecond => ?_, fun hhour => ?_, fun hminute => ?_, fun hwday => ?_, fun hday => ?_, fun hmonth => ?_,
    fun hyear => ?_⟩
  · exact packFrom_of_out_of_range rfl (decide_eq_false (Nat.not_le.2 hsecond))
  · have hout : inRange .hour24 s.time.hour24.toNat = false := decide_eq_false (Nat.not_le.2 hhour)
    exact ⟨packFrom_of_out_of_range rfl hout, packFrom_of_out_of_range rfl hout⟩
  · exact packFrom_of_out_of_range rfl (decide_eq_false (Nat.not_le.2 hminute))
  · exact packFrom_of_out_of_range rfl (decide_eq_false (Nat.not_le.2 hwday))
  · exact packFrom_of_out_of_range hday rfl
  · have hout : inRange .month s.time.month.toNat = false := by
      simp only [inRange, ← Bool.decide_and]
      exact decide_eq_false (by omega)
    exact packFrom_of_out_of_range rfl hout
  · have hout : inRange .year s.time.year.toNat = false := decide_eq_false (Nat.not_le.2 hyear)
    exact ⟨packFrom_of_out_of_range rfl hout, packFrom_of_out_of_range rfl hout⟩

/-- A word that does not decode makes the step a refused one (log 15). -/
theorem step_of_rejected {s : State} {why : DecodeReject} (hreset : (nextSample s).reset = false)
    (hf : s.faulted = false) (h : decode s.cfg.durW (nextSample s).word = .rejected why) :
    step s = .refused (.undecodable why) := by
  simp [step, hreset, hf, h]

/-- Settles O57: the step is refused, and a refused step only consumes its sample. -/
theorem undecodableWordIsRefusedAndExecutesNothing : Obligations.UndecodableWordIsRefusedAndExecutesNothing := by
  unfold Obligations.UndecodableWordIsRefusedAndExecutesNothing
  intro s p rest why hscript hreset hf hdec
  have hsample := nextSample_cons hscript
  have hstep : step s = .refused (.undecodable why) :=
    step_of_rejected (by rw [hsample, hreset]) hf (by rw [hsample, hdec])
  rw [afterStep_refused hstep]
  exact ⟨hstep, sampled_cons hscript, frameValid_sampled s, waveValid_sampled s⟩

end Sys2Proof.Machine

/-! ## O59, O21, O16: the accumulators `V0` to `V12` and the closed form of the frame (R108, R116, R118, R122) -/
namespace Sys2Proof.Machine

/-! ### One packing step -/

/-- Each packing step appends a value that fits its field (R122). -/
theorem accAfterSteps_succ_eq_append {c : Config} {t : TimeBundle} (h : AppendsFit c t) {k : Nat} (hk : k < 12) :
    ∃ n x, 0 < n ∧ x < 2 ^ n ∧ accAfterSteps c t (k + 1) = append (accAfterSteps c t k) n x := by
  obtain ⟨hmarker, hrsv, hhour, hmin, hwday, hpm, hpar1, hday, hmon, hylow, hyhi, hpar2⟩ := h
  interval_cases k
  · exact ⟨2, _, by decide, Nat.lt_of_le_of_lt hmarker (by decide), accAfterSteps_succ (pack := packMarker c t) c t rfl⟩
  · exact ⟨2, _, by decide, hrsv, accAfterSteps_succ (pack := packRsv) c t rfl⟩
  · exact ⟨4, _, by decide, Nat.lt_of_le_of_lt hhour (by decide), accAfterSteps_succ (pack := packHour t) c t rfl⟩
  · exact ⟨6, _, by decide, Nat.lt_of_le_of_lt hmin (by decide), accAfterSteps_succ (pack := packMin t) c t rfl⟩
  · exact ⟨4, _, by decide, Nat.lt_of_le_of_lt hwday (by decide), accAfterSteps_succ (pack := packWday c t) c t rfl⟩
  · exact ⟨1, _, by decide, Nat.lt_of_le_of_lt hpm (by decide), accAfterSteps_succ (pack := packPm t) c t rfl⟩
  · exact ⟨1, _, by decide, Nat.lt_of_le_of_lt hpar1 (by decide), accAfterSteps_succ (pack := packParity) c t rfl⟩
  · exact ⟨6, _, by decide, Nat.lt_of_le_of_lt hday (by decide), accAfterSteps_succ (pack := packDay t) c t rfl⟩
  · exact ⟨4, _, by decide, Nat.lt_of_le_of_lt hmon (by decide), accAfterSteps_succ (pack := packMon t) c t rfl⟩
  · exact ⟨6, _, by decide, Nat.lt_of_le_of_lt hylow (by decide), accAfterSteps_succ (pack := packYlow t) c t rfl⟩
  · exact ⟨1, _, by decide, Nat.lt_of_le_of_lt hyhi (by decide), accAfterSteps_succ (pack := packYhi t) c t rfl⟩
  · exact ⟨1, _, by decide, Nat.lt_of_le_of_lt hpar2 (by decide), accAfterSteps_succ (pack := packParity) c t rfl⟩

section
variable {c : Config} {t : TimeBundle} (h : AppendsFit c t) {k : Nat}
include h

/-- Every accumulator of R100 is within its width. -/
theorem accAfterSteps_lt (hk : k ≤ 12) : (accAfterSteps c t k).value < 2 ^ (accAfterSteps c t k).width := by
  induction k with
  | zero => exact Nat.one_pos
  | succ k ih =>
    obtain ⟨n, x, -, hx, happend⟩ := accAfterSteps_succ_eq_append h hk
    rw [happend]
    exact append_fits (ih (Nat.le_of_succ_le hk)) hx

/-- Each step widens the accumulator, and what was there before is its upper part (R122: no spill). -/
theorem accAfterSteps_succ_upper (hk : k < 12) :
    (accAfterSteps c t k).width < (accAfterSteps c t (k + 1)).width ∧
    (accAfterSteps c t (k + 1)).value / 2 ^ ((accAfterSteps c t (k + 1)).width - (accAfterSteps c t k).width) =
      (accAfterSteps c t k).value := by
  obtain ⟨n, x, hn, hx, happend⟩ := accAfterSteps_succ_eq_append h hk
  rw [happend]
  refine ⟨Nat.lt_add_of_pos_right hn, ?_⟩
  rw [append_width, Nat.add_sub_cancel_left, append_upper _ hx]

/-- The widths grow to 38, that of `V12` (R100: `assert w(V12) = 38`). -/
theorem accAfterSteps_width_le (hk : k ≤ 12) : (accAfterSteps c t k).width ≤ 38 := by
  induction hk using Nat.decreasingInduction with
  | self => exact Nat.le_refl 38
  | of_succ k hk ih => exact Nat.le_trans (Nat.le_of_lt (accAfterSteps_succ_upper h hk).1) ih

theorem encodeAcc_lt : (encodeAcc c t).value < 2 ^ 38 := by
  have hwidth : (encodeAcc c t).width = 38 := rfl
  have hlt := accAfterSteps_lt h (Nat.le_refl 12)
  rwa [accAfterSteps_twelve, hwidth] at hlt

/-- The register takes `V12` whole (R115, R122). -/
theorem encodeFrame_toNat : (encodeFrame c t).toNat = (encodeAcc c t).value := by
  rw [encodeFrame, BitVec.toNat_ofNat, Nat.mod_eq_of_lt (encodeAcc_lt h)]

end

/-- Settles O59: every step of R100 appends a value that fits its field, and the register takes `V12` whole. -/
theorem encoderNeverOverflows : Obligations.EncoderNeverOverflows := by
  unfold Obligations.EncoderNeverOverflows
  intro s h
  have hfits := appendsFit_of_validTime s.cfg h
  have hlt := encodeAcc_lt hfits
  rw [accAfterSteps_twelve]
  refine ⟨hfits, fun k hk => ⟨accAfterSteps_lt hfits hk, accAfterSteps_width_le hfits hk⟩,
    fun k hk => accAfterSteps_succ_upper hfits hk, hlt, Nat.mod_eq_of_lt (Nat.lt_trans hlt (by decide)), ?_⟩
  exact ⟨encodeFrame s.cfg s.time, exec_encode_of_validTime h, encodeFrame_toNat hfits⟩

/-! ### The two readings of `PAR2` (R118) -/

/-- Below upper bits that fold to 0 the fold is that of the low bits alone. -/
theorem xorfold_append_of_even {m n v x : Nat} (hv : xorfold m v = 0) (hx : x < 2 ^ n) :
    xorfold (m + n) (v * 2 ^ n + x) = xorfold n x := by
  rw [xorfold_append _ _ _ _ hx, hv, Nat.zero_add, Nat.mod_eq_of_lt (xorfold_lt_two n x)]

theorem xorfold_firstHalf (c : Config) (t : TimeBundle) : xorfold (firstHalf c t).width (firstHalf c t).value = 0 :=
  xorfold_packParity (accAfterSteps c t 6)

/-- Settles O21: the fold of an append is the sum of the folds, and a parity step makes that of the first half 0. -/
theorem prefixAndSecondHalfParityAgree : Obligations.PrefixAndSecondHalfParityAgree := by
  unfold Obligations.PrefixAndSecondHalfParityAgree
  exact ⟨fun V7 B hB hV7 => xorfold_append_of_even (m := 20) (n := 17) hV7 hB, xorfold_firstHalf⟩

/-! ### The closed form (R116) -/

/-- `A` of R116 is `V6`. -/
theorem accAfterSteps_six_eq_closedA (c : Config) (t : TimeBundle) : (accAfterSteps c t 6).value = closedA c t :=
  accAfterSteps_six_value c t

/-- `B` of R116 is what steps 8 to 11 append to `V7`. -/
theorem accAfterSteps_eleven_value (c : Config) (t : TimeBundle) :
    (accAfterSteps c t 11).value = (firstHalf c t).value * 2 ^ 17 + closedB t := by
  have hsteps : accAfterSteps c t 11 = packYhi t (packYlow t (packMon t (packDay t (firstHalf c t)))) := rfl
  simp only [hsteps, packYhi, packYlow, packMon, packDay, append_value, ylowField, yhiField, closedB]
  ring

theorem closedB_lt {c : Config} {t : TimeBundle} (h : AppendsFit c t) : closedB t < 2 ^ 17 := by
  obtain ⟨-, -, -, -, -, -, -, hday, hmon, hylow, hyhi, -⟩ := h
  simp only [ylowField, yhiField] at hylow hyhi
  simp only [closedB]
  omega

/-- R116: the closed form is `V12`, whose `PAR2` folds all 37 bits before it (R118). -/
theorem closedFrame_eq_encodeAcc {c : Config} {t : TimeBundle} (h : AppendsFit c t) :
    closedFrame c t = (encodeAcc c t).value := by
  have hsecond : xorfold 37 (accAfterSteps c t 11).value = xorfold 17 (closedB t) := by
    rw [accAfterSteps_eleven_value]
    exact xorfold_append_of_even (m := 20) (n := 17) (xorfold_firstHalf c t) (closedB_lt h)
  have hfirst : (firstHalf c t).value = (accAfterSteps c t 6).value * 2 ^ 1 + xorfold 19 (accAfterSteps c t 6).value := rfl
  have hlast : (encodeAcc c t).value =
    (accAfterSteps c t 11).value * 2 ^ 1 + xorfold 37 (accAfterSteps c t 11).value := rfl
  rw [accAfterSteps_six_eq_closedA] at hfirst
  rw [hlast, hsecond, accAfterSteps_eleven_value, hfirst, closedFrame]
  omega

/-- Settles O16: the frame `ENCODE` writes is `V12`, which has the closed form. -/
theorem encodeWritesTheClosedForm : Obligations.EncodeWritesTheClosedForm := by
  unfold Obligations.EncodeWritesTheClosedForm
  intro s h
  have hfits := appendsFit_of_validTime s.cfg h
  rw [closedFrame_eq_encodeAcc hfits]
  exact ⟨exec_encode_of_validTime h, encodeAcc_lt hfits⟩

end Sys2Proof.Machine

/-! ## O23, O24: what the frame depends on and what it determines (R119) -/
namespace Sys2Proof.Machine

/-- The encoder reads the two modes of the configuration and nothing else of it. -/
theorem encodeFrame_congr {c c' : Config} (t : TimeBundle) (hwday : c.wdayMode = c'.wdayMode)
    (hmarker : c.markerMode = c'.markerMode) : encodeFrame c t = encodeFrame c' t := by
  simp only [encodeFrame, encodeAcc, firstHalf, packMarker, packWday, hwday, hmarker]

/-- Settles O23: `ENCODE` writes `encodeFrame` of the bundle and the configuration, which reads the modes alone. -/
theorem frameDependsOnTimeAndModesOnly : Obligations.FrameDependsOnTimeAndModesOnly := by
  unfold Obligations.FrameDependsOnTimeAndModesOnly
  intro s s' htime hwday hmarker h
  refine ⟨encodeFrame s.cfg s.time, exec_encode_of_validTime h, ?_⟩
  rw [encodeFrame_congr s.time hwday hmarker, htime]
  exact exec_encode_of_validTime (htime ▸ h)

/-- `t.hour24 = HOUR + 12*PM`. -/
theorem hourField_add_pmField {v : Nat} (h : v ≤ 23) : hourField v + 12 * pmField v = v := by
  simp only [hourField, pmField]
  split <;> omega

/-- `t.year = 64*YHI + YLOW`. -/
theorem yhiField_ylowField (v : Nat) : 64 * yhiField v + ylowField v = v := Nat.div_add_mod v 64

/-- R81 can be inverted in either mode. -/
theorem wdayField_injective (m : WdayMode) {v v' : Nat} (hv : v ≤ 6) (hv' : v' ≤ 6)
    (h : wdayField m v = wdayField m v') : v = v' := by
  cases m with
  | sun7 => simp only [wdayField] at h; split_ifs at h <;> omega
  | plus1 => exact Nat.succ.inj h

/-- Settles O24: every slice of the frame is one field, and the fields give the ports back. -/
theorem frameDeterminesTheTimePorts : Obligations.FrameDeterminesTheTimePorts := by
  unfold Obligations.FrameDeterminesTheTimePorts
  intro c t t' h h' heq
  obtain ⟨hmarker, -, hhour, hmin, hwday, hpm, hday, hmon, hylow, hyhi⟩ :=
    encodeFrame_fields (appendsFit_of_validTime c h)
  obtain ⟨hmarker', -, hhour', hmin', hwday', hpm', hday', hmon', hylow', hyhi'⟩ :=
    encodeFrame_fields (appendsFit_of_validTime c h')
  obtain ⟨-, -, -, hhour24, -, -, hweek⟩ := (validTime_iff t).1 h
  obtain ⟨-, -, -, hhour24', -, -, hweek'⟩ := (validTime_iff t').1 h'
  rw [heq] at hmarker hhour hmin hwday hpm hday hmon hylow hyhi
  refine ⟨BitVec.eq_of_toNat_eq ?_, BitVec.eq_of_toNat_eq ?_, BitVec.eq_of_toNat_eq ?_, BitVec.eq_of_toNat_eq ?_,
    BitVec.eq_of_toNat_eq ?_, BitVec.eq_of_toNat_eq ?_, hmarker.symm.trans hmarker'⟩
  · rw [← yhiField_ylowField t.year.toNat, ← hyhi, ← hylow, hyhi', hylow', yhiField_ylowField]
  · exact hmon.symm.trans hmon'
  · exact hday.symm.trans hday'
  · rw [← hourField_add_pmField hhour24, ← hhour, ← hpm, hhour', hpm', hourField_add_pmField hhour24']
  · exact hmin.symm.trans hmin'
  · exact wdayField_injective c.wdayMode hweek hweek' (hwday.symm.trans hwday')

end Sys2Proof.Machine

/-! ## O18: `ENCODE` of an invalid bundle (R120) -/
namespace Sys2Proof.Machine

/-- A step taken executes the decoded instruction on the sampled state (R174). -/
theorem step_of_decoded {s : State} {i : Instr} (hreset : (nextSample s).reset = false) (hf : s.faulted = false)
    (h : decode s.cfg.durW (nextSample s).word = .instr i) : step s = exec i (sampled s) := by
  simp [step, hreset, hf, h]

theorem exec_encode_of_firstBadField {s : State} {f : TimeField} (h : firstBadField s.time = some f) :
    exec .encode s = .fault (.timeRange f (portValue s.time f)) := by
  simp only [exec, execEncode, h]

theorem exists_firstBadField {t : TimeBundle} (h : validTime t = false) : ∃ f, firstBadField t = some f := by
  apply Option.ne_none_iff_exists'.1
  rw [Ne, firstBadField_eq_none_iff, h]
  exact Bool.false_ne_true

/-- Every port before the reported one in the order of R191 is in its range. -/
theorem inRange_of_before_firstBadField {t : TimeBundle} {f g : TimeField} (h : firstBadField t = some f)
    (hg : fieldOrder.idxOf g < fieldOrder.idxOf f) : inRange g (portValue t g) = true := by
  have hnodup : fieldOrder.Nodup := by decide
  obtain ⟨-, i, hi, rfl, hbefore⟩ := List.find?_eq_some_iff_getElem.1 h
  rw [hnodup.idxOf_getElem] at hg
  simpa using hbefore _ hg

/-- Settles O18: `ENCODE` reports the first bad port of the sampled bundle, and a fault writes the mark alone. -/
theorem encodeOfInvalidTimeFaults : Obligations.EncodeOfInvalidTimeFaults := by
  unfold Obligations.EncodeOfInvalidTimeFaults
  intro s t rest hscript hf hvalid
  obtain ⟨f, hbad⟩ := exists_firstBadField hvalid
  have hsample := nextSample_cons hscript
  have hstep : step s = exec .encode (sampled s) :=
    step_of_decoded (by rw [hsample]; rfl) hf (by rw [hsample]; exact decode_cmd (by decide))
  have htime : (sampled s).time = t := by rw [sampled_time, hsample]; rfl
  have hfault : step s = .fault (.timeRange f (portValue t f)) := by
    rw [hstep, exec_encode_of_firstBadField (by rw [htime, hbad]), htime]
  rw [afterStep_fault hfault]
  exact ⟨f, hfault, firstBadField_some hbad, fun g hg => inRange_of_before_firstBadField hbad hg, rfl, rfl⟩

end Sys2Proof.Machine

/-! ## O27, O28, O30: the packing rows on the model's scratch (R102 to R113, log 5) -/
namespace Sys2Proof.Machine

/-- A packing step whose port is in range writes the accumulator. -/
theorem packFrom_of_in_range {f : TimeField} {pack : Acc → Acc} {s : State} (h : inRange f (portValue s.time f) = true) :
    packFrom f pack s = .next (setAcc (pack s.scratch.acc) s) := if_pos h

/-- What a packing step that appends `x` leaves, the accumulator written out. -/
theorem packFrom_append {f : TimeField} {s : State} {w v : Nat} (n x : Nat)
    (hacc : s.scratch.acc = { width := w, value := v }) (h : inRange f (portValue s.time f) = true) :
    packFrom f (fun V => append V n x) s =
      .next { s with scratch := { s.scratch with acc := { width := w + n, value := v * 2 ^ n + x } } } := by
  rw [packFrom_of_in_range h, hacc]
  rfl

/-- Settles O27: each row appends its field, its port being in range. -/
theorem packingRowsAppendTheirField : Obligations.PackingRowsAppendTheirField := by
  unfold Obligations.PackingRowsAppendTheirField
  intro s w v hacc
  refine ⟨fun hsecond => ?_, fun hhour => ?_, fun hminute => ?_, fun hwday => ?_, fun hhour => ?_, fun hday => ?_,
    fun hmonth hmonth' => ?_, fun hyear => ?_, fun hyear => ?_⟩
  · exact packFrom_append 2 (markerField _ _) hacc (decide_eq_true hsecond)
  · exact packFrom_append 4 (hourField _) hacc (decide_eq_true hhour)
  · exact packFrom_append 6 _ hacc (decide_eq_true hminute)
  · exact packFrom_append 4 (wdayField _ _) hacc (decide_eq_true hwday)
  · exact packFrom_append 1 (pmField _) hacc (decide_eq_true hhour)
  · have hday' : s.time.day.toNat ≤ 31 := Nat.le_of_lt_succ s.time.day.isLt
    exact packFrom_append 6 _ hacc (Bool.and_eq_true_iff.2 ⟨decide_eq_true hday, decide_eq_true hday'⟩)
  · exact packFrom_append 4 _ hacc (Bool.and_eq_true_iff.2 ⟨decide_eq_true hmonth, decide_eq_true hmonth'⟩)
  · exact packFrom_append 6 (ylowField _) hacc (decide_eq_true hyear)
  · exact packFrom_append 1 (yhiField _) hacc (decide_eq_true hyear)

theorem exec_stepRsv (s : State) : exec .stepRsv s = .next (setAcc (packRsv s.scratch.acc) s) := rfl

theorem exec_stepPar1 (s : State) : exec .stepPar1 s = .next (setAcc (packParity s.scratch.acc) s) := rfl

theorem exec_stepPar2 (s : State) : exec .stepPar2 s = .next (setAcc (packParity s.scratch.acc) s) := rfl

/-- Settles O28: the reserved row appends the constant 0, a parity row the fold of what it finds. -/
theorem reservedAndParityRowsAppend : Obligations.ReservedAndParityRowsAppend := by
  unfold Obligations.ReservedAndParityRowsAppend
  intro s w v hacc
  constructor
  · rw [exec_stepRsv, hacc, Nat.mul_comm 4 v]
    rfl
  · refine ⟨xorfold w v, xorfold_lt_two w v, rfl, xorfold_packParity { width := w, value := v }, ?_, ?_⟩
    · rw [exec_stepPar1, hacc]; rfl
    · rw [exec_stepPar2, hacc]; rfl

/-! ### The twelve rows in order (R100, R101) -/

theorem inRange_of_validTime {t : TimeBundle} (h : validTime t = true) (f : TimeField) :
    inRange f (portValue t f) = true :=
  List.all_eq_true.1 h f (by cases f <;> decide)

/-- In state `s`, whatever its accumulator, the row does to the accumulator what the packing step does. -/
def RowRuns (s : State) (row : Instr) (pack : Acc → Acc) : Prop :=
  ∀ V, exec row (setAcc V s) = .next (setAcc (pack V) s)

theorem rowRuns_of_packFrom {s : State} {row : Instr} {f : TimeField} {pack : Acc → Acc}
    (hrow : ∀ V, exec row (setAcc V s) = packFrom f pack (setAcc V s)) (h : inRange f (portValue s.time f) = true) :
    RowRuns s row pack :=
  fun V => (hrow V).trans (packFrom_of_in_range h)

/-- On a valid bundle each packing row runs its step of R100. -/
theorem packingRows_run_packSteps {s : State} (h : validTime s.time = true) :
    List.Forall₂ (RowRuns s) packingRows (packSteps s.cfg s.time) := by
  have hin := inRange_of_validTime h
  refine .cons ?marker <| .cons ?rsv <| .cons ?hour <| .cons ?min <| .cons ?wday <| .cons ?pm <| .cons ?par1 <|
    .cons ?day <| .cons ?mon <| .cons ?ylow <| .cons ?yhi <| .cons ?par2 .nil
  case rsv | par1 | par2 => exact fun V => rfl
  case marker => exact rowRuns_of_packFrom (fun V => rfl) (hin .second)
  case hour | pm => exact rowRuns_of_packFrom (fun V => rfl) (hin .hour24)
  case min => exact rowRuns_of_packFrom (fun V => rfl) (hin .minute)
  case wday => exact rowRuns_of_packFrom (fun V => rfl) (hin .wday)
  case day => exact rowRuns_of_packFrom (fun V => rfl) (hin .day)
  case mon => exact rowRuns_of_packFrom (fun V => rfl) (hin .month)
  case ylow | yhi => exact rowRuns_of_packFrom (fun V => rfl) (hin .year)

/-- Rows that each run a packing step run the steps one after the other. -/
theorem execAll_of_rowRuns {s : State} {rows : List Instr} {packs : List (Acc → Acc)}
    (h : List.Forall₂ (RowRuns s) rows packs) (V : Acc) :
    execAll rows (setAcc V s) = .next (setAcc (packs.foldl (fun V pack => pack V) V) s) := by
  induction h generalizing V with
  | nil => rfl
  | cons hrow _ ih =>
    rw [execAll, hrow V]
    exact ih _

/-- The twelve rows leave `V12` in an accumulator that was empty. -/
theorem execAll_packingRows {s : State} (h : validTime s.time = true) (hacc : s.scratch.acc = Acc.empty) :
    execAll packingRows s = .next (setAcc (encodeAcc s.cfg s.time) s) := by
  have hself : setAcc Acc.empty s = s := by rw [← hacc]; rfl
  have hrun := execAll_of_rowRuns (packingRows_run_packSteps h) Acc.empty
  rwa [hself] at hrun

/-- `V12` is the written frame at width 38. -/
theorem encodeAcc_eq_accOfFrame {c : Config} {t : TimeBundle} (h : AppendsFit c t) :
    encodeAcc c t = accOfFrame (encodeFrame c t) := by
  rw [accOfFrame, encodeFrame_toNat h]
  rfl

/-- Settles O30: the rows run the twelve steps of R100, whose last accumulator is the frame `ENCODE` writes. -/
theorem twelvePackingRowsBuildTheFrame : Obligations.TwelvePackingRowsBuildTheFrame := by
  unfold Obligations.TwelvePackingRowsBuildTheFrame
  intro s h hacc
  refine ⟨encodeFrame s.cfg s.time, ?_, exec_encode_of_validTime h⟩
  rw [execAll_packingRows h hacc, encodeAcc_eq_accOfFrame (appendsFit_of_validTime s.cfg h)]
  rfl

end Sys2Proof.Machine

/-! ## O55: the split into symbols (R114) -/
namespace Sys2Proof.Machine

/-- Settles O55: a slice of two bits at `2 * (18 - i)` is a digit to the base 4. -/
theorem symbolsAreTheFramesBitPairs : Obligations.SymbolsAreTheFramesBitPairs := by
  unfold Obligations.SymbolsAreTheFramesBitPairs
  intro F
  refine ⟨symbols_length F, fun i hi => ⟨symbols_getElem? F hi, ?_⟩⟩
  have hplace : 36 - 2 * i = 2 * (18 - i) := by omega
  rw [toNat_extractLsb', hplace, Nat.pow_mul]
  rfl

end Sys2Proof.Machine

/-! ## O33, O35, O38: the arithmetic of one pulse pair (R141 to R145, R149, R154) -/
namespace Sys2Proof.Machine

/-- The pair of a symbol value, with the factor in front as R142 to R145 write it. -/
theorem pulsePair_eq (T s : Nat) :
    pulsePair T s = [{ lvl := .low, dur := (s + 1) * T / 10 }, { lvl := .high, dur := T - (s + 1) * T / 10 }] := by
  rw [pulsePair, highTicks, lowTicks, Nat.mul_comm T]

/-- Symbol value 0, whose factor R142 does not write. -/
theorem pulsePair_zero (T : Nat) :
    pulsePair T 0 = [{ lvl := .low, dur := T / 10 }, { lvl := .high, dur := T - T / 10 }] := by
  rw [pulsePair_eq, Nat.zero_add, Nat.one_mul]

/-- Settles O33, by the pair of each symbol value; the worked numbers are evaluated. -/
theorem pulsePairsOfTheFourSymbols : Obligations.PulsePairsOfTheFourSymbols := by
  unfold Obligations.PulsePairsOfTheFourSymbols
  refine ⟨fun T => ⟨pulsePair_zero T, pulsePair_eq T 1, pulsePair_eq T 2, pulsePair_eq T 3, ?_, ?_, ?_⟩,
    rfl, rfl, rfl, rfl, rfl⟩
  · exact fun hT => Nat.div_pos hT (by decide)
  · exact Nat.mul_div_le (4 * T) 10
  · omega

/-- The two halves of a pair are one second: the second is got by subtraction (R141, R149). -/
theorem lowTicks_add_highTicks (T : Nat) {s : Nat} (hs : s ≤ 3) : lowTicks T s + highTicks T s = T :=
  Nat.add_sub_of_le (lowTicks_le T s hs)

/-- From ten ticks a second on, the next symbol value adds at least one tick of carrier. -/
theorem lowTicks_strictMono {T : Nat} (hT : 10 ≤ T) : StrictMono (lowTicks T) :=
  strictMono_nat_of_lt_succ fun s => by
    have hproduct : T * (s + 1 + 1) = T * (s + 1) + T := Nat.mul_succ T (s + 1)
    simp only [lowTicks]
    omega

theorem lowTicks_pos {T : Nat} (hT : 10 ≤ T) (s : Nat) : 1 ≤ lowTicks T s :=
  Nat.div_pos (hT.trans (Nat.le_mul_of_pos_right T s.succ_pos)) (by decide)

/-- Symbol value 3 has the longest carrier (R145). -/
theorem lowTicks_le_four_tenths {T s : Nat} (hT : 10 ≤ T) (hs : s ≤ 3) : lowTicks T s ≤ 4 * T / 10 := by
  have hlongest : lowTicks T s ≤ lowTicks T 3 := (lowTicks_strictMono hT).monotone hs
  rwa [lowTicks, lowTicks, Nat.mul_comm T (3 + 1)] at hlongest

/-- Settles O35: the low durations grow strictly with the symbol value, up to four tenths of a second. -/
theorem pulsePairSumsToOneSecond : Obligations.PulsePairSumsToOneSecond := by
  unfold Obligations.PulsePairSumsToOneSecond
  intro c x
  obtain ⟨hT, -, -⟩ := c.wf
  have hlow := lowTicks_le_four_tenths hT (symbol_le x)
  have hhigh : c.T - 4 * c.T / 10 ≤ highTicks c.T x.toNat := Nat.sub_le_sub_left hlow c.T
  exact ⟨lowTicks_add_highTicks c.T (symbol_le x), lowTicks_pos hT _, hlow, hhigh, by omega,
    fun y hxy => lowTicks_strictMono hT hxy⟩

/-- With `n` ticks in a tenth of a second the division by ten leaves nothing over. -/
theorem lowTicks_ten_mul (n s : Nat) : lowTicks (10 * n) s = (s + 1) * n := by
  rw [lowTicks, Nat.mul_assoc, Nat.mul_div_cancel_left _ (by decide), Nat.mul_comm]

theorem highTicks_ten_mul (n s : Nat) : highTicks (10 * n) s = (9 - s) * n := by
  rw [highTicks, lowTicks_ten_mul, ← Nat.sub_mul, Nat.add_comm, Nat.sub_add_eq]

/-- Settles O38: a multiple of ten divides exactly, and a floor is short by less than the divisor. -/
theorem tenthsAreExactWhenTenDividesT : Obligations.TenthsAreExactWhenTenDividesT := by
  unfold Obligations.TenthsAreExactWhenTenDividesT
  intro c x
  refine ⟨fun hdvd => ?_, ?_⟩
  · obtain ⟨n, hn⟩ := hdvd
    rw [hn, Nat.mul_div_cancel_left _ (by decide)]
    exact ⟨lowTicks_ten_mul n _, highTicks_ten_mul n _⟩
  · rw [lowTicks, Nat.mul_comm c.T]
    exact ⟨Nat.mul_div_le _ 10, Nat.lt_mul_div_succ _ (by decide)⟩

end Sys2Proof.Machine

/-! ## O36, O37, O39, O40: the waveform of a frame (R149 to R153) -/
namespace Sys2Proof.Machine

/-! ### The length in ticks and the start of each second (R150) -/

theorem totalTicks_pulsePair (T : Nat) {s : Nat} (hs : s ≤ 3) : totalTicks (pulsePair T s) = T := by
  simpa [pulsePair] using lowTicks_add_highTicks T hs

/-- Every pair lasts one second, whatever its symbol. -/
theorem totalTicks_pairs (T : Nat) (xs : List Symbol) :
    totalTicks (xs.flatMap fun x => pulsePair T x.toNat) = xs.length * T := by
  induction xs with
  | nil => simp
  | cons x xs ih =>
    rw [List.flatMap_cons, totalTicks_append, totalTicks_pulsePair T (symbol_le x), ih, List.length_cons, Nat.succ_mul,
      Nat.add_comm]

/-- The first `2 * i` segments are the pairs of the first `i` symbols. -/
theorem take_pairs (T : Nat) (xs : List Symbol) (i : Nat) :
    (xs.flatMap fun x => pulsePair T x.toNat).take (2 * i) = (xs.take i).flatMap fun x => pulsePair T x.toNat := by
  induction xs generalizing i with
  | nil => simp
  | cons x xs ih =>
    cases i with
    | zero => rfl
    | succ i => exact congrArg (pulsePair T x.toNat ++ ·) (ih i)

/-- The 19 pairs before the trailer last 19 seconds. -/
theorem totalTicks_symbolPairs (T : Nat) (F : Frame) :
    totalTicks ((symbols F).flatMap fun x => pulsePair T x.toNat) = 19 * T := by
  rw [totalTicks_pairs, symbols_length]

@[simp] theorem trailer_dur (T : Nat) : (trailer T).dur = T := rfl

theorem totalTicks_synthesize (T : Nat) (F : Frame) : totalTicks (synthesize T F) = 20 * T := by
  rw [synthesize, totalTicks_append, totalTicks_symbolPairs, totalTicks_cons, totalTicks_nil, trailer_dur]
  omega

theorem startTick_synthesize (T : Nat) (F : Frame) {i : Nat} (hi : i ≤ 19) :
    startTick (synthesize T F) (2 * i) = i * T := by
  have hpairs : 2 * i ≤ ((symbols F).flatMap fun x => pulsePair T x.toNat).length := by
    rw [symbolPairs_length]
    omega
  rw [startTick, synthesize, List.take_append_of_le_length hpairs, take_pairs, totalTicks_pairs, List.length_take,
    symbols_length, Nat.min_eq_left hi]

/-- Settles O36: every pair and the trailer last one second, so second `i` starts after `i` pairs. -/
theorem epochLastsTwentySeconds : Obligations.EpochLastsTwentySeconds := by
  unfold Obligations.EpochLastsTwentySeconds
  intro s F hF
  exact ⟨synthesize s.cfg.T F, exec_synth_of_frame hF, totalTicks_synthesize _ F, fun i => startTick_synthesize _ F⟩

/-! ### The level function (R151) -/

/-- Ticks from the end of `U` on are counted in what follows it. -/
theorem level_append_of_ge {U W : Waveform} {x : Nat} (h : totalTicks U ≤ x) :
    level (U ++ W) x = level W (x - totalTicks U) := by
  induction U generalizing x with
  | nil => rfl
  | cons g U ih =>
    rw [totalTicks_cons] at h
    rw [List.cons_append, level_cons_ge (by omega), ih (by omega), totalTicks_cons, Nat.sub_sub]

/-- Past its end a waveform says nothing. -/
theorem level_of_totalTicks_le {W : Waveform} {x : Nat} (h : totalTicks W ≤ x) : level W x = none := by
  simpa [level] using level_append_of_ge (W := []) h

/-- Inside a pair the level is low for the pair's low duration and high for the rest of the second. -/
theorem level_pulsePair_append {T s r : Nat} (W : Waveform) (hs : s ≤ 3) (hr : r < T) :
    level (pulsePair T s ++ W) r = some (if r < lowTicks T s then .low else .high) := by
  have hsum := lowTicks_add_highTicks T hs
  rw [pulsePair, List.cons_append]
  by_cases hlow : r < lowTicks T s
  · rw [level_cons_lt hlow, if_pos hlow]
  · rw [level_cons_ge (Nat.not_lt.1 hlow), if_neg hlow]
    exact level_cons_lt (by dsimp only; omega)

/-- In a run of pairs tick `r` of second `i` is tick `r` of the `i`-th symbol's pair. -/
theorem level_pairs_append (T : Nat) {xs : List Symbol} {i r : Nat} {x : Symbol} (W : Waveform) (h : xs[i]? = some x)
    (hr : r < T) : level ((xs.flatMap fun y => pulsePair T y.toNat) ++ W) (i * T + r) =
      some (if r < lowTicks T x.toNat then .low else .high) := by
  induction xs generalizing i with
  | nil => simp at h
  | cons y ys ih =>
    rw [List.flatMap_cons, List.append_assoc]
    cases i with
    | zero =>
      obtain rfl : y = x := by simpa using h
      rw [Nat.zero_mul, Nat.zero_add]
      exact level_pulsePair_append _ (symbol_le y) hr
    | succ i =>
      have hpair := totalTicks_pulsePair T (symbol_le y)
      have htick : (i + 1) * T + r = T + (i * T + r) := by rw [Nat.succ_mul]; omega
      rw [htick, level_append_of_ge (by omega), hpair, Nat.add_sub_cancel_left]
      exact ih (by simpa using h)

/-- The last second of the epoch is the trailer, high throughout (R147). -/
theorem level_synthesize_trailer {T : Nat} (F : Frame) {x : Nat} (hge : 19 * T ≤ x) (hlt : x < 20 * T) :
    level (synthesize T F) x = some .high := by
  rw [synthesize, level_append_of_ge (by rwa [totalTicks_symbolPairs]), totalTicks_symbolPairs]
  exact level_cons_lt (by rw [trailer_dur]; omega)

/-- A second with a symbol is low for that symbol's low duration and high for the rest. -/
theorem level_synthesize_symbol {T : Nat} (F : Frame) {x : Nat} (hT : 0 < T) (hi : x / T ≤ 18) :
    level (synthesize T F) x = some (if x % T < lowTicks T (sym F (x / T)).toNat then .low else .high) := by
  have hlevel := level_pairs_append T [trailer T] (symbols_getElem? F hi) (Nat.mod_lt x hT)
  rwa [Nat.div_add_mod'] at hlevel

theorem level_synthesize {T : Nat} (F : Frame) {x : Nat} (hx : x < 20 * T) :
    level (synthesize T F) x = some (closedLevel T F x) := by
  have hT : 0 < T := by omega
  rw [closedLevel]
  by_cases hi : x / T ≤ 18
  · rw [level_synthesize_symbol F hT hi]
    exact congrArg some (if_congr (and_iff_right hi).symm rfl rfl)
  · have hge : 19 * T ≤ x := (Nat.le_div_iff_mul_le hT).1 (Nat.not_le.1 hi)
    rw [level_synthesize_trailer F hge hx, if_neg fun h => hi h.1]

/-- Settles O37: inside the epoch by the second of the tick, past its end by the length in ticks. -/
theorem levelHasItsClosedForm : Obligations.LevelHasItsClosedForm := by
  unfold Obligations.LevelHasItsClosedForm
  exact fun c F x => ⟨level_synthesize F, fun h => level_of_totalTicks_le (by rwa [totalTicks_synthesize])⟩

/-! ### The waveform determines the frame (R152) -/

/-- The 19 symbols hold every bit of the frame: bit `j` is in symbol `18 - j / 2`. -/
theorem frame_eq_of_sym_eq {F G : Frame} (h : ∀ i, i ≤ 18 → sym F i = sym G i) : F = G := by
  refine BitVec.eq_of_getLsbD_eq fun j hj => ?_
  have hplace : 36 - 2 * (18 - j / 2) + j % 2 = j := by omega
  have hbit := congrArg (·.getLsbD (j % 2)) (h (18 - j / 2) (by omega))
  have hwithin : j % 2 < 2 := Nat.mod_lt j (by decide)
  simpa only [sym, BitVec.getLsbD_extractLsb', hplace, hwithin, decide_true, Bool.true_and] using hbit

/-- Segment `2 * i` of a frame's waveform is the low one of symbol `i`. -/
theorem synthesize_getElem?_low (T : Nat) (F : Frame) {i : Nat} (hi : i ≤ 18) :
    (synthesize T F)[2 * i]? = some { lvl := .low, dur := lowTicks T (sym F i).toNat } := by
  rw [synthesize_getElem?_of_lt T F (by omega)]
  exact (pairs_getElem? T (symbols_getElem? F hi)).1

/-- Settles O39: equal low durations come from equal symbols, which are the frame. -/
theorem waveformDeterminesTheFrame : Obligations.WaveformDeterminesTheFrame := by
  unfold Obligations.WaveformDeterminesTheFrame
  intro c F G h
  obtain ⟨hT, -, -⟩ := c.wf
  refine frame_eq_of_sym_eq fun i hi => BitVec.eq_of_toNat_eq ((lowTicks_strictMono hT).injective ?_)
  have hlow := synthesize_getElem?_low c.T F hi
  rw [h, synthesize_getElem?_low c.T G hi] at hlow
  simpa using hlow.symm

/-! ### Every duration fits its register (R149, R153) -/

/-- Both segments of a pair last at least one tick (R149). -/
theorem pulsePair_dur_pos (c : Config) {x : Nat} (hx : x ≤ 3) : ∀ g ∈ pulsePair c.T x, 1 ≤ g.dur := by
  obtain ⟨hT, -, -⟩ := c.wf
  have hlow := lowTicks_le_four_tenths hT hx
  simp only [pulsePair, List.forall_mem_cons, highTicks]
  exact ⟨lowTicks_pos hT x, by omega, by simp⟩

theorem synthesize_dur (c : Config) (F : Frame) : ∀ g ∈ synthesize c.T F, 1 ≤ g.dur ∧ g.dur < 2 ^ c.durW := by
  intro g hg
  rcases List.mem_append.1 hg with hpair | htrailer
  · obtain ⟨x, -, hx⟩ := List.mem_flatMap.1 hpair
    exact ⟨pulsePair_dur_pos c (symbol_le x) g hx, pulsePair_dur_lt c (symbol_le x) g hx⟩
  · obtain rfl := List.mem_singleton.1 htrailer
    obtain ⟨hT, hfits, -⟩ := c.wf
    exact ⟨(by decide : 1 ≤ 10).trans hT, hfits⟩

/-- Settles O40: what `SYNTH` writes is pairs and the trailer, each within a second. -/
theorem durationsFitTheirRegister : Obligations.DurationsFitTheirRegister := by
  unfold Obligations.DurationsFitTheirRegister
  intro s u h
  obtain ⟨F, -, rfl⟩ := execSynth_next h
  exact ⟨synthesize s.cfg.T F, rfl, synthesize_dur s.cfg F⟩

end Sys2Proof.Machine

/-! ## O34, O41: the symbol rows on the model's scratch (R142 to R147, log 5) -/
namespace Sys2Proof.Machine

/-- The row of a symbol adds that symbol's pair. -/
theorem exec_symInstr (x : Symbol) (s : State) :
    exec (symInstr x) s = .next (addSegments (pulsePair s.cfg.T x.toNat) s) := by
  match x with
  | 0#2 | 1#2 | 2#2 | 3#2 => rfl

/-- Settles O34: each row is that of one symbol value, its pair written as R142 to R145 do. -/
theorem symbolRowsAddTheirPulsePair : Obligations.SymbolRowsAddTheirPulsePair := by
  unfold Obligations.SymbolRowsAddTheirPulsePair
  rintro s W rfl
  rw [← pulsePair_zero, ← pulsePair_eq s.cfg.T 1, ← pulsePair_eq s.cfg.T 2, ← pulsePair_eq s.cfg.T 3]
  exact ⟨exec_symInstr 0 s, exec_symInstr 1 s, exec_symInstr 2 s, exec_symInstr 3 s⟩

@[simp] theorem addSegments_nil (s : State) : addSegments [] s = s := by simp [addSegments]

@[simp] theorem addSegments_addSegments (g h : Waveform) (s : State) :
    addSegments h (addSegments g s) = addSegments (g ++ h) s := by
  simp [addSegments]

/-- The rows of a list of symbols add their pairs in order. -/
theorem execAll_symInstr (xs : List Symbol) (s : State) :
    execAll (xs.map symInstr) s = .next (addSegments (xs.flatMap fun x => pulsePair s.cfg.T x.toNat) s) := by
  induction xs generalizing s with
  | nil => rw [List.flatMap_nil, addSegments_nil]; rfl
  | cons x xs ih =>
    rw [List.map_cons, execAll, exec_symInstr]
    dsimp only
    rw [ih, addSegments_addSegments, addSegments_cfg, List.flatMap_cons]

/-- The rows of a frame add its whole waveform. -/
theorem execAll_synthesisRows (s : State) (F : Frame) :
    execAll (synthesisRows s.cfg.T F) s = .next (addSegments (synthesize s.cfg.T F) s) := by
  rw [synthesisRows, execAll_append, execAll_symInstr, synthesize, ← addSegments_addSegments]
  rfl

/-- Settles O41: on a scratch without segments the rows leave the waveform that `SYNTH` writes. -/
theorem symbolRowsBuildTheWaveform : Obligations.SymbolRowsBuildTheWaveform := by
  unfold Obligations.SymbolRowsBuildTheWaveform
  intro s F hF hsegs
  refine ⟨synthesize s.cfg.T F, ?_, exec_synth_of_frame hF⟩
  rw [execAll_synthesisRows, addSegments, hsegs, List.nil_append]

end Sys2Proof.Machine

/-! ## O32: `SYNTH` without a frame, `TAKE` without a waveform (R155, R173) -/
namespace Sys2Proof.Machine

theorem exec_synth_of_no_frame {s : State} (h : s.frame = none) : exec .synth s = .fault .noFrame := by
  simp only [exec, execSynth, h]

theorem frame_eq_none_of_not_valid {s : State} (h : frameValid s = false) : s.frame = none :=
  Option.isNone_iff_eq_none.1 (Option.isSome_eq_false_iff.1 h)

theorem wave_eq_none_of_not_valid {s : State} (h : waveValid s = false) : s.wave = none :=
  Option.isNone_iff_eq_none.1 (Option.isSome_eq_false_iff.1 h)

/-- A driven command is executed on the sampled state (R174). -/
theorem step_of_command {s : State} {c : BitVec 2} {t : TimeBundle} {rest : List PortSample}
    (hscript : s.script = command c t :: rest) (hf : s.faulted = false) :
    step s = exec (decodeCmd c.toNat) (sampled s) := by
  have hsample := nextSample_cons hscript
  exact step_of_decoded (by rw [hsample]; rfl) hf (by rw [hsample]; exact decode_cmd c.isLt)

/-- Settles O32: each command faults on its missing register, and a fault writes the mark alone. -/
theorem commandsWithoutTheirRegisterFault : Obligations.CommandsWithoutTheirRegisterFault := by
  unfold Obligations.CommandsWithoutTheirRegisterFault
  intro s t rest hf
  refine ⟨fun hscript hvalid => ?_, fun hscript hvalid => ?_⟩
  · have hfault : step s = .fault .noFrame :=
      (step_of_command hscript hf).trans (exec_synth_of_no_frame (frame_eq_none_of_not_valid hvalid))
    rw [afterStep_fault hfault]
    exact ⟨hfault, rfl, rfl⟩
  · have hfault : step s = .fault .noWave :=
      (step_of_command hscript hf).trans (exec_take_of_no_wave (wave_eq_none_of_not_valid hvalid))
    rw [afterStep_fault hfault]
    exact ⟨hfault, rfl, rfl⟩

end Sys2Proof.Machine

/-! ## O6, O7, O8, O9, O15: the driven sample and the instruction it runs (R170, R174, log 3) -/
namespace Sys2Proof.Machine

/-- Settles O6: the sample taken off the script is the one that is decoded. -/
theorem stepRunsTheDecodedInstruction : Obligations.StepRunsTheDecodedInstruction := by
  unfold Obligations.StepRunsTheDecodedInstruction
  intro s p rest i hscript hreset hf hdec
  have hsample := nextSample_cons hscript
  rw [← sampled_cons hscript]
  exact step_of_decoded (by rw [hsample, hreset]) hf (by rw [hsample, hdec])

/-- Settles O8: `withFetchWord` drives the word with the ports as they are, so taking its sample gives the state back. -/
theorem placedWordRunsNext : Obligations.PlacedWordRunsNext := by
  unfold Obligations.PlacedWordRunsNext
  intro s nbits w i hf hdec
  exact stepRunsTheDecodedInstruction (s.withFetchWord nbits w) _ s.script i rfl rfl hf hdec

theorem exec_nop (s : State) : exec .nop s = .next s := rfl

/-- Settles O15. -/
theorem nopLeavesTheStateAsItWas : Obligations.NopLeavesTheStateAsItWas := by
  unfold Obligations.NopLeavesTheStateAsItWas
  exact exec_nop

/-- The idle sample carries the ports as they are, so sampling it changes nothing. -/
theorem sampled_nil {s : State} (h : s.script = []) : sampled s = s := by
  have htail : s.script.tail = s.script := by rw [h, List.tail_nil]
  rw [sampled, nextSample_nil s h, htail, idleSample]

/-- Settles O7: the idle sample decodes to NOP. -/
theorem stepWithNothingDrivenIsNop : Obligations.StepWithNothingDrivenIsNop := by
  unfold Obligations.StepWithNothingDrivenIsNop
  intro s hscript hf
  have hidle := nextSample_nil s hscript
  have hdec : decode s.cfg.durW (nextSample s).word = .instr .nop := by
    rw [hidle]
    exact decode_cmd (by decide)
  rw [step_of_decoded (by rw [hidle]; rfl) hf hdec, sampled_nil hscript, exec_nop]

/-- Settles O9: every command code decodes, and no instruction is refused. -/
theorem commandStepIsNeverRefused : Obligations.CommandStepIsNeverRefused := by
  unfold Obligations.CommandStepIsNeverRefused
  intro s c t rest hscript hf r
  rw [step_of_command hscript hf]
  exact exec_ne_refused _ _ r

end Sys2Proof.Machine

/-! ## O42, O45: the hand-off, and which commands complete in which phase (R171, R175) -/
namespace Sys2Proof.Machine

theorem exec_take_of_wave {s : State} {W : Waveform} (h : s.wave = some W) : exec .take s = .next (handOver W s) := by
  simp only [exec, execTake, h]

/-- Settles O42: the new state is that of `handOver`. -/
theorem takeHandsOverTheWaveform : Obligations.TakeHandsOverTheWaveform := by
  unfold Obligations.TakeHandsOverTheWaveform
  intro s W hW
  exact exec_take_of_wave hW

/-- `SYNTH` completes exactly with a frame present (R140, R155). -/
theorem exec_synth_completes_iff (s : State) : (∃ t, exec .synth s = .next t) ↔ frameValid s = true := by
  rw [frameValid_iff]
  constructor
  · rintro ⟨t, h⟩
    obtain ⟨F, hF, -⟩ := execSynth_next h
    exact ⟨F, hF⟩
  · rintro ⟨F, hF⟩
    exact ⟨_, exec_synth_of_frame hF⟩

/-- `TAKE` completes exactly with a waveform present (R171, R173). -/
theorem exec_take_completes_iff (s : State) : (∃ t, exec .take s = .next t) ↔ waveValid s = true := by
  rw [waveValid_iff]
  constructor
  · rintro ⟨t, h⟩
    obtain ⟨W, hW, -⟩ := execTake_next h
    exact ⟨W, hW⟩
  · rintro ⟨W, hW⟩
    exact ⟨_, exec_take_of_wave hW⟩

/-- A command completes exactly inside its contract (R190). -/
theorem exec_command_completes_iff {i : Instr} (hi : isCommand i = true) (s : State) :
    (∃ t, exec i s = .next t) ↔ inContract i s = true := by
  cases i with
  | nop => exact ⟨fun _ => rfl, fun _ => ⟨s, exec_nop s⟩⟩
  | encode => exact exec_encode_completes_iff s
  | synth => exact exec_synth_completes_iff s
  | take => exact exec_take_completes_iff s
  | _ => cases hi

/-- The flags of a phase are its columns for `SYNTH` and `TAKE` (R175). -/
theorem flags_of_phase {s : State} {p : Phase} (h : phase s = some p) :
    frameValid s = phaseAllows p .synth ∧ waveValid s = phaseAllows p .take := by
  unfold phase at h
  split at h <;> cases h <;> exact ⟨‹_›, ‹_›⟩

/-- With a valid bundle a command's contract is its entry in the phase table (R175, R190). -/
theorem inContract_eq_phaseAllows {s : State} {p : Phase} {i : Instr} (hp : phase s = some p) (hi : isCommand i = true)
    (htime : validTime s.time = true) : inContract i s = phaseAllows p i := by
  obtain ⟨hframe, hwave⟩ := flags_of_phase hp
  cases i with
  | nop => cases p <;> rfl
  | encode => rw [inContract, htime]; cases p <;> rfl
  | synth => exact hframe
  | take => exact hwave
  | _ => cases hi

/-- Settles O45: a command completes exactly inside its contract, which the phase decides. -/
theorem phaseSaysWhichCommandsComplete : Obligations.PhaseSaysWhichCommandsComplete := by
  unfold Obligations.PhaseSaysWhichCommandsComplete
  intro s p i hp hi htime
  rw [exec_command_completes_iff hi, inContract_eq_phaseAllows hp hi htime]

end Sys2Proof.Machine

/-! ## O44: arming, with NOPs between `ENCODE` and `SYNTH` (R177) -/
namespace Sys2Proof.Machine

/-- The state after a driven command that completes. -/
theorem afterStep_of_command {s u : State} {c : BitVec 2} {t : TimeBundle} {rest : List PortSample}
    (hscript : s.script = command c t :: rest) (hf : s.faulted = false)
    (h : exec (decodeCmd c.toNat) { s with script := rest, time := t } = .next u) : afterStep s = u := by
  apply afterStep_next
  rw [step_of_command hscript hf, sampled_cons hscript]
  exact h

/-- Driven NOPs with the bundle already on the ports do nothing but leave the script (R170). -/
theorem afterSteps_of_nops {n k : Nat} {s : State} {rest : List PortSample}
    (hscript : s.script = List.replicate n (command 0#2 s.time) ++ rest) (hf : s.faulted = false) :
    afterSteps (n + k) s = afterSteps k { s with script := rest } := by
  induction n generalizing s with
  | zero => rw [Nat.zero_add, ← hscript.trans (List.nil_append rest)]
  | succ n ih =>
    rw [List.replicate_succ, List.cons_append] at hscript
    rw [Nat.succ_add, afterSteps, afterStep_of_command hscript hf (exec_nop _)]
    exact ih rfl hf

/-- Settles O44: `ENCODE` puts the frame and the bundle in place, the NOPs leave both, `SYNTH` reads that frame. -/
theorem armingLeavesTheFrameAndItsWaveform : Obligations.ArmingLeavesTheFrameAndItsWaveform := by
  unfold Obligations.ArmingLeavesTheFrameAndItsWaveform
  intro s t n rest hf htime hscript
  obtain ⟨hencode, -⟩ := encodeWritesTheClosedForm
    { s with script := List.replicate n (command 0#2 t) ++ ([command 2#2 t] ++ rest), time := t } htime
  rw [arming, List.cons_append, List.append_assoc] at hscript
  generalize BitVec.ofNat 38 (closedFrame s.cfg t) = F at hencode ⊢
  calc afterSteps (n + 2) s
    _ = afterSteps (n + 1) { s with
          script := List.replicate n (command 0#2 t) ++ ([command 2#2 t] ++ rest), time := t, frame := some F } :=
      congrArg (afterSteps (n + 1)) (afterStep_of_command hscript hf hencode)
    _ = afterSteps 1 { s with script := command 2#2 t :: rest, time := t, frame := some F } := afterSteps_of_nops rfl hf
    _ = { s with script := rest, time := t, frame := some F, wave := some (synthesize s.cfg.T F) } :=
      afterStep_of_command rfl hf (exec_synth_of_frame rfl)

end Sys2Proof.Machine

/-! ## O12, O46: what a fault leaves, and when an instruction completes (R190, R191, R192) -/
namespace Sys2Proof.Machine

/-- Settles O12: after a fault the state is the sampled one with the mark set, and sampling changes only the inputs (log 10). -/
theorem faultingStepWritesNothing : Obligations.FaultingStepWritesNothing := by
  unfold Obligations.FaultingStepWritesNothing
  intro s r h
  rw [afterStep_fault h]
  exact ⟨markFaulted_faulted _, rfl, rfl, rfl, rfl, rfl, rfl, rfl⟩

/-- A packing step completes exactly with its port in range (log 8). -/
theorem packFrom_completes_iff (f : TimeField) (pack : Acc → Acc) (s : State) :
    (∃ t, packFrom f pack s = .next t) ↔ inRange f (portValue s.time f) = true := by
  constructor
  · rintro ⟨t, h⟩
    exact (packFrom_next h).1
  · intro h
    exact ⟨_, packFrom_of_in_range h⟩

/-- Every instruction completes exactly inside its contract: a command by R190, a row that packs a port by that port's range
(log 8), and any other row always (log 5). -/
theorem exec_completes_iff (i : Instr) (s : State) : (∃ t, exec i s = .next t) ↔ inContract i s = true := by
  cases i with
  | nop | encode | synth | take => exact exec_command_completes_iff rfl s
  | stepMarker => exact packFrom_completes_iff .second _ s
  | stepHour | stepPm => exact packFrom_completes_iff .hour24 _ s
  | stepMin => exact packFrom_completes_iff .minute _ s
  | stepWday => exact packFrom_completes_iff .wday _ s
  | stepDay => exact packFrom_completes_iff .day _ s
  | stepMon => exact packFrom_completes_iff .month _ s
  | stepYlow | stepYhi => exact packFrom_completes_iff .year _ s
  | stepRsv | stepPar1 | stepPar2 | sym0 | sym1 | sym2 | sym3 | frame | marker0 | marker1 | marker2 | segment =>
    exact ⟨fun _ => rfl, fun _ => ⟨_, rfl⟩⟩

/-- Settles O46: the contract decides completion, and no instruction is refused. -/
theorem completesExactlyInContract : Obligations.CompletesExactlyInContract := by
  unfold Obligations.CompletesExactlyInContract
  exact fun i s => ⟨exec_completes_iff i s, exec_ne_refused i s⟩

end Sys2Proof.Machine

/-! ## O10, O26: the reset event, and the markers of the scheduled seconds (R230, R240) -/
namespace Sys2Proof.Machine

/-- Settles O10: the reset event is taken before any decoding, and sampling changes only the inputs. -/
theorem resetEventEmptiesAnyState : Obligations.ResetEventEmptiesAnyState := by
  unfold Obligations.ResetEventEmptiesAnyState
  intro s w t rest hscript
  have hreset : (nextSample s).reset = true := by rw [nextSample_cons hscript]; rfl
  exact ⟨_, step_of_reset hreset, resetEvent_frame _, resetEvent_wave _, resetEvent_faulted _,
    frameValid_resetEvent _, waveValid_resetEvent _, rfl, rfl, resetEvent_scratch _⟩

/-- One second after each arming second, 59 carried to 0 (R201). -/
theorem scheduledSecond_iff (v : Nat) : scheduledSecond v = true ↔ v = 20 ∨ v = 40 ∨ v = 0 := by
  simp only [scheduledSecond, armingSeconds, List.any_cons, List.any_nil, Bool.or_false, Bool.or_eq_true, beq_iff_eq]
  omega

/-- The first symbol of an encoded frame is its marker field (R71, R72). -/
theorem encodeFrame_sym_zero (c : Config) {t : TimeBundle} (h : validTime t = true) :
    (sym (encodeFrame c t) 0).toNat = markerField c.markerMode t.second.toNat :=
  (encodeFrame_fields (appendsFit_of_validTime c h)).1

/-- Settles O26, by the marker field at each scheduled second under each boundary mode. -/
theorem markersOfTheScheduledSeconds : Obligations.MarkersOfTheScheduledSeconds := by
  unfold Obligations.MarkersOfTheScheduledSeconds
  intro c t htime hsecond
  rw [encodeFrame_sym_zero c htime]
  obtain h | h | h := (scheduledSecond_iff _).1 hsecond <;> rw [h] <;> cases c.markerMode <;> rfl

end Sys2Proof.Machine
